-- ==== Sys2Proof/Word.lean ====
section
/-! DEFINITION. The value types of the block's rules: bytes, action words, register widths and the velocity type. -/

namespace Sys2Proof

/-- A byte of a buffer (00_scope.md R9). -/
abbrev Byte := BitVec 8

/-- An action word: 32 bits, delivered whole (30_encoding.md R70, 20_memory.md R51). -/
abbrev Word := BitVec 32

/-- A signed 32-bit element (`RAW`, `OFFSET`, `LAST`, a position), two's complement (00_scope.md R9). -/
abbrev S32 := BitVec 32

/-- A value of the microsecond time base, `W_US` = 64 bits (00_scope.md R8, 10_state.md R28, R30). -/
abbrev Micros := BitVec 64

/-- A velocity in counts per second: a rational number under `VEL_ARITH = EXACT` (00_scope.md R12). -/
abbrev Vel := Rat

end Sys2Proof
end

