-- ==== Sys2Proof/Config.lean ====
section
/-! DEFINITION. What is fixed for one block and what its environment supplies: the parameters of 00_scope.md R8, the
agents of 60_exceptions.md R190, the draws of R194, the steps the agents take, and the free values (opaque constants). -/

namespace Sys2Proof

/-! ### Parameters that have a value (00_scope.md R8) -/

/-- `N_ENC`. -/
abbrev Config.nEnc : Nat := 2

/-- `N_BTN`. -/
abbrev Config.nBtn : Nat := 6

/-- `DEBOUNCE_US`. -/
abbrev Config.debounceUs : Nat := 50000

/-- `CNT_LOW`. -/
abbrev Config.cntLow : Int := -10000

/-- `CNT_HIGH`. -/
abbrev Config.cntHigh : Int := 10000

/-- `FRAME_SIZE`. -/
abbrev Config.frameSize : Nat := 25

/-- `VEL_SCALE`. -/
abbrev Config.velScale : Int := 100

/-- `ADC_MAX`: the largest value of the 12-bit sample type `Draws.vol`, `Draws.sld`. -/
abbrev Config.adcMax : Nat := 4095

/-- `CNT_FAIL_ENABLED`. -/
abbrev Config.cntFailEnabled : Bool := true

/-- `ADC_FAIL_ENABLED`. -/
abbrev Config.adcFailEnabled : Bool := true

/-- `PUB_FAIL_ENABLED`. -/
abbrev Config.pubFailEnabled : Bool := true

/-- `GLITCH_NS`, "about 1000": timing only, no rule reads it (40_encoder.md R110). -/
abbrev Config.glitchNs : Nat := 1000

/-- `I2C_HZ`: timing only, no rule reads it (70_reset_and_hazards.md R220). -/
abbrev Config.i2cHz : Nat := 100000

/-- `P_A`, in ms: timing only, no rule reads it (70_reset_and_hazards.md R220). -/
abbrev Config.periodA : Nat := 20

/-- `P_B`, in ms: timing only, no rule reads it (70_reset_and_hazards.md R220). -/
abbrev Config.periodB : Nat := 10

/-! ### Parameters that are OPEN (00_scope.md R8) -/

/-- The three candidate policies of a raw count at its limits (40_encoder.md R102). -/
inductive LimitPolicy
  | zero
  | saturate
  | wrap
  deriving DecidableEq, Repr, Inhabited

/-- The OPEN parameters of 00_scope.md R8. The model carries them as an argument of every step, in `State.params`;
no step writes them. -/
structure Params where
  /-- `LIMIT_POLICY` (40_encoder.md R102). -/
  limitPolicy : LimitPolicy
  /-- `PIN_MAP`, written from its range: the pin, if any, of each button. Every such table gives a partial injective
  map from pins to buttons, and every partial injective map has such a table (DEDUCED, safe: log 6). -/
  pinOf : Vector (Option (Fin 256)) Config.nBtn
  /-- `QSTATE_INIT`, per encoder {A, B} (10_state.md R23). -/
  qstateInit : Vector (BitVec 2) Config.nEnc
  /-- `I2C_ADDR`: the address match is outside the block, no rule reads it (00_scope.md R7). -/
  i2cAddr : BitVec 7
  /-- `P_NOMINAL`: the programs take their period as an argument, no rule reads it (92_eei_decisions.md D32). -/
  pNominal : BitVec 16
  deriving DecidableEq, Repr, Inhabited

/-! ### The environment -/

/-- The agents that present action words (60_exceptions.md R190); `ENV` presents none. -/
inductive Agent
  | taskA
  | taskB
  | edge
  | qphase (e : Fin Config.nEnc)
  | master
  deriving DecidableEq, Repr, Inhabited

/-- The draws one action may take (60_exceptions.md R194), chosen anew for each action. The 12-bit samples are exactly
the values 0..4095. -/
structure Draws where
  /-- raw counter read ok (40_encoder.md R104). -/
  cntOk : Bool
  /-- ADC read ok, volume (41_input.md R133). -/
  volOk : Bool
  /-- ADC value, volume. -/
  vol : BitVec 12
  /-- ADC read ok, slider (41_input.md R133). -/
  sldOk : Bool
  /-- ADC value, slider. -/
  sld : BitVec 12
  /-- bus write ok (42_telemetry.md R155). -/
  pubOk : Bool
  deriving DecidableEq, Repr, Inhabited

/-- The operand record that accompanies a word on the operand channel; `PACK` alone reads it (30_encoding.md R74). -/
structure PackRecord where
  pos0 : S32
  vel0 : Vel
  pos1 : S32
  vel1 : Vel
  ts : BitVec 32
  flags : BitVec 8
  vol : BitVec 16
  sld : BitVec 16
  deriving DecidableEq, Repr, Inhabited

/-- The record of zeros. -/
def PackRecord.zero : PackRecord :=
  { pos0 := 0, vel0 := 0, pos1 := 0, vel1 := 0, ts := 0, flags := 0, vol := 0, sld := 0 }

/-- One step of one agent or of the environment (60_exceptions.md R190): what the schedule is a list of. -/
inductive Event
  /-- Any agent presents any word, with the operand channel's record (30_encoding.md R78). -/
  | present (agent : Agent) (word : Word) (record : PackRecord) (draws : Draws)
  /-- Task A presents its next word of `CYCLE.A`; `p` is read at the cycle's first word only (30_encoding.md R82;
  log 4). -/
  | taskA (p : BitVec 16) (draws : Draws)
  /-- Task B presents its next word of `CYCLE.B`; `p`, `ts` are read at the cycle's first word only
  (30_encoding.md R81; log 4). -/
  | taskB (p : BitVec 16) (ts : BitVec 32) (draws : Draws)
  /-- `TICK(more + 1)`: every amount k >= 1 is of this form (60_exceptions.md R195). -/
  | tick (more : Nat)
  /-- A master write transaction: no word, no effect (42_telemetry.md R158). -/
  | masterWrite (data : List Byte)
  /-- Reset, an input of the block (70_reset_and_hazards.md R200). -/
  | reset
  deriving DecidableEq, Repr, Inhabited

/-! ### Free values: constants with no body, so nothing can be proved of their values -/

/-- The OPEN parameters of the block that `State.reset` describes (log 3). -/
opaque Config.openParams : Params

/-- The step that some agent takes as the `moves`-th step where the schedule lists none (20_memory.md R60; log 1). -/
opaque Config.freeEvent (moves : Nat) : Event

/-- Draws for an action that `State.withFetchWord` places, and the draws that stand latched at reset (log 2). -/
opaque Config.freeDraws (moves : Nat) : Draws

/-- Byte `k` of a master read, beyond the frame (42_telemetry.md R157; log 2). -/
opaque Config.freeByte (moves k : Nat) : Byte

end Sys2Proof
end

