-- ==== Sys2Proof/Syntax.lean ====
section
/-! DEFINITION. The actions: one constructor per row of the opcode map (30_encoding.md R75), with the operands of R73
and, for `PACK`, the operand record of R74. -/

namespace Sys2Proof

/-- One action. Index, pin, period and byte count are the unsigned integers of 30_encoding.md R73; their bounds are
`Instr.wellFormed`. -/
inductive Instr
  /-- `ENC.RESET e` (40_encoder.md R105). -/
  | encReset (e : Nat)
  /-- `ENC.POS e` (40_encoder.md R106). -/
  | encPos (e : Nat)
  /-- `ENC.VEL e, p` (40_encoder.md R107). -/
  | encVel (e : Nat) (p : Nat)
  /-- `BTN.EDGE pin` (41_input.md R131). -/
  | btnEdge (pin : Nat)
  /-- `IN.SNAP` (41_input.md R132). -/
  | inSnap
  /-- `IN.CLR` (41_input.md R134). -/
  | inClr
  /-- `PACK {…}` (42_telemetry.md R151). -/
  | pack (r : PackRecord)
  /-- `PUB` (42_telemetry.md R155). -/
  | pub
  /-- `QIN e, a, b` (40_encoder.md R101). -/
  | qin (e : Nat) (a b : Bool)
  /-- `I2C.RD n` (42_telemetry.md R157). -/
  | i2cRd (n : Nat)
  deriving DecidableEq, Repr, Inhabited

end Sys2Proof
end

