-- ==== Sys2Proof/WellFormed.lean ====
section
/-! DEFINITION. Which actions have an action word: every operand fits its field (30_encoding.md R71, R73). -/

namespace Sys2Proof

/-- Each operand fits its field: `IDX` 4 bits, `PIN` 8 bits, `IMM` 16 bits. An index of 2..15 is well-formed: it is a
legal encoding that faults when executed (30_encoding.md R73). -/
def Instr.wellFormed : Instr → Bool
  | .encReset e => decide (e < 2 ^ 4)
  | .encPos e => decide (e < 2 ^ 4)
  | .encVel e p => decide (e < 2 ^ 4) && decide (p < 2 ^ 16)
  | .btnEdge pin => decide (pin < 2 ^ 8)
  | .inSnap => true
  | .inClr => true
  | .pack _ => true
  | .pub => true
  | .qin e _ _ => decide (e < 2 ^ 4)
  | .i2cRd n => decide (n < 2 ^ 16)

end Sys2Proof
end

