-- ==== Sys2Proof/Decode.lean ====
section
/-! DEFINITION. Decoding of action words by match and mask, total on every word, and the encoder
(30_encoding.md R70-R77, R80). -/

namespace Sys2Proof

/-! ### Fields (30_encoding.md R71, R73) -/

/-- `OP = w[31:28]`. -/
def fieldOp (w : Word) : BitVec 4 := w.extractLsb' 28 4

/-- `IDX = w[27:24]`, as an unsigned integer. -/
def fieldIdx (w : Word) : Nat := (w.extractLsb' 24 4).toNat

/-- `PIN = w[23:16]`, as an unsigned integer. -/
def fieldPin (w : Word) : Nat := (w.extractLsb' 16 8).toNat

/-- `IMM = w[15:0]`, as an unsigned integer. -/
def fieldImm (w : Word) : Nat := (w.extractLsb' 0 16).toNat

/-! ### The opcode map (30_encoding.md R75) -/

/-- The ten operations. -/
inductive Op
  | encReset
  | encPos
  | encVel
  | btnEdge
  | inSnap
  | inClr
  | pack
  | pub
  | qin
  | i2cRd
  deriving DecidableEq, Repr, Inhabited

/-- A row of the match and mask table. -/
structure Row where
  op : Op
  pattern : Word
  mask : Word
  deriving DecidableEq, Repr, Inhabited

/-- The match and mask table (30_encoding.md R75). -/
def opcodeRows : List Row :=
  [ ⟨.encReset, 0x10000000#32, 0xF0FFFFFF#32⟩,
    ⟨.encPos, 0x20000000#32, 0xF0FFFFFF#32⟩,
    ⟨.encVel, 0x30000000#32, 0xF0FF0000#32⟩,
    ⟨.btnEdge, 0x40000000#32, 0xFF00FFFF#32⟩,
    ⟨.inSnap, 0x50000000#32, 0xFFFFFFFF#32⟩,
    ⟨.inClr, 0x60000000#32, 0xFFFFFFFF#32⟩,
    ⟨.pack, 0x70000000#32, 0xFFFFFFFF#32⟩,
    ⟨.pub, 0x80000000#32, 0xFFFFFFFF#32⟩,
    ⟨.qin, 0x90000000#32, 0xF0FFFFFC#32⟩,
    ⟨.i2cRd, 0xA0000000#32, 0xFFFF0000#32⟩ ]

/-- Whether a word is in a row: `(w AND r.mask) == r.match` (30_encoding.md R76). -/
def Row.holds (r : Row) (w : Word) : Bool := w &&& r.mask == r.pattern

/-- The first row a word is in (30_encoding.md R76). -/
def findRow (w : Word) : Option Row := opcodeRows.find? (fun r => r.holds w)

/-- The operands of a word of the given operation (30_encoding.md R73, R74). -/
def operandsOf (w : Word) (record : PackRecord) : Op → Instr
  | .encReset => .encReset (fieldIdx w)
  | .encPos => .encPos (fieldIdx w)
  | .encVel => .encVel (fieldIdx w) (fieldImm w)
  | .btnEdge => .btnEdge (fieldPin w)
  | .inSnap => .inSnap
  | .inClr => .inClr
  | .pack => .pack record
  | .pub => .pub
  | .qin => .qin (fieldIdx w) (w.getLsbD 1) (w.getLsbD 0)
  | .i2cRd => .i2cRd (fieldImm w)

/-- Why a word is illegal (30_encoding.md R77). Both reasons fault `ILLEGAL_ACTION`. -/
inductive Reject
  /-- `OP` is 0x0 or 0xB..0xF. -/
  | reservedOp
  /-- `OP` is in 0x1..0xA and a must-be-zero field is not zero. -/
  | mustBeZero
  deriving DecidableEq, Repr, Inhabited

/-- Whether `OP` is one of the operation codes 0x1..0xA (30_encoding.md R75). -/
def opInMap (w : Word) : Bool := decide (1 ≤ (fieldOp w).toNat ∧ (fieldOp w).toNat ≤ 0xA)

/-- Decoding, total on every word (30_encoding.md R76, R77). -/
def decode (w : Word) (record : PackRecord) : Except Reject Instr :=
  match findRow w with
  | some r => .ok (operandsOf w record r.op)
  | none => .error (if opInMap w then .mustBeZero else .reservedOp)

/-! ### The encoder (30_encoding.md R80) -/

/-- An index in place, `e << 24`. -/
def placeIdx (e : Nat) : Word := BitVec.ofNat 32 e <<< 24

/-- A pin number in place, `pin << 16`. -/
def placePin (pin : Nat) : Word := BitVec.ofNat 32 pin <<< 16

/-- An immediate in place. -/
def placeImm (v : Nat) : Word := BitVec.ofNat 32 v

/-- The word of an action (30_encoding.md R80). -/
def encode : Instr → Word
  | .encReset e => 0x10000000#32 ||| placeIdx e
  | .encPos e => 0x20000000#32 ||| placeIdx e
  | .encVel e p => 0x30000000#32 ||| placeIdx e ||| placeImm p
  | .btnEdge pin => 0x40000000#32 ||| placePin pin
  | .inSnap => 0x50000000#32
  | .inClr => 0x60000000#32
  | .pack _ => 0x70000000#32
  | .pub => 0x80000000#32
  | .qin e a b => 0x90000000#32 ||| placeIdx e ||| placeImm (a.toNat * 2) ||| placeImm b.toNat
  | .i2cRd n => 0xA0000000#32 ||| placeImm n

/-- The record that accompanies an action's word (30_encoding.md R74). -/
def recordOf : Instr → PackRecord
  | .pack r => r
  | _ => PackRecord.zero

/-- The action that the decoder reads from a word whose bits are `w`, with the record of zeros on the operand channel;
every action word has 32 bits and is delivered whole (30_encoding.md R70, 20_memory.md R51). -/
def decodeTableWord (nbits w : Nat) : Option Instr :=
  match decode (BitVec.ofNat 32 (w % 2 ^ nbits)) PackRecord.zero with
  | .ok i => some i
  | .error _ => none

end Sys2Proof
end

