-- ==== Sys2Proof/Machine/State.lean ====
section
/-! DEFINITION. The state: `Block` is the spec's complete state (10_state.md R38); around it stand the agents' own storage
and the model's own fields. The state after reset, and the reasons a step can stop. -/

namespace Sys2Proof.Machine

/-- One encoder's state (10_state.md R22-R25). -/
structure Encoder where
  /-- `RAW[e]` (R22). -/
  raw : S32
  /-- `QSTATE[e]`, {A, B} (R23). -/
  qstate : BitVec 2
  /-- `OFFSET[e]` (R24). -/
  offset : S32
  /-- `LAST[e]` (R25). -/
  last : S32
  deriving DecidableEq, Repr, Inhabited

/-- One button's state (10_state.md R27, R28). -/
structure Button where
  /-- `PRESSED[b]` (R27). -/
  pressed : Bool
  /-- `LAST_PRESS_US[b]` (R28). -/
  lastPressUs : Micros
  deriving DecidableEq, Repr, Inhabited

/-- A byte-addressed buffer, addresses 0..24 (20_memory.md R50), as the list of its bytes that are not 0x00, addresses
rising. An unlisted address reads 0x00, the buffers' reset contents (10_state.md R31, R32). -/
abbrev Memory := List Host.Cell

/-- The complete state of the block (10_state.md R38). -/
structure Block where
  /-- `RAW`, `QSTATE`, `OFFSET`, `LAST`. -/
  encoders : Vector Encoder Config.nEnc
  /-- `PRESSED`, `LAST_PRESS_US`. -/
  buttons : Vector Button Config.nBtn
  /-- `TB_US` (R30). -/
  tbUs : Micros
  /-- `FRAME` (R31). -/
  frame : Memory
  /-- `TXBUF` (R32). -/
  txbuf : Memory
  /-- `FAULT_CODE` (R33). -/
  faultCode : BitVec 8
  /-- `FAULT_WORD` (R33). -/
  faultWord : Word
  deriving DecidableEq, Repr, Inhabited

/-- A publish's status (42_telemetry.md R155). -/
inductive PubStatus
  | ok
  | fail
  deriving DecidableEq, Repr, Inhabited

/-- What an action responds (30_encoding.md R79). -/
inductive Response
  | position (pos : S32)
  | velocity (v : Vel)
  | snapshot (flags : BitVec 8) (vol sld : BitVec 16)
  | status (st : PubStatus)
  | bytes (bs : List Byte)
  deriving DecidableEq, Repr, Inhabited

/-- A response and the agent it is returned to (30_encoding.md R79). -/
structure Delivery where
  agent : Agent
  value : Response
  deriving DecidableEq, Repr, Inhabited

/-- The place a task has reached in its cycle: the action it presents next (30_encoding.md R81, R82). -/
inductive Stage
  | pos0
  | vel0
  | pos1
  | vel1
  | snap
  | pack
  | pub
  | clr
  deriving DecidableEq, Repr, Inhabited

/-- A task's own storage (30_encoding.md R81, R82): not state of the block (10_state.md R20, R37). Task A uses the stages
`pos0`..`vel1`, `p` and `r0`..`r3` alone. -/
structure Task where
  stage : Stage
  p : BitVec 16
  ts : BitVec 32
  r0 : S32
  r1 : Vel
  r2 : S32
  r3 : Vel
  r4 : BitVec 8
  r5 : BitVec 16
  r6 : BitVec 16
  r7 : PubStatus
  deriving DecidableEq, Repr, Inhabited

/-- The machine's state. `block` is the spec's; `taskA` and `taskB` are the tasks' own storage; the other fields are the
model's (INVENTORY.md, State). -/
structure State where
  /-- The state of the block (10_state.md R38). -/
  block : Block
  /-- Task A's storage (30_encoding.md R82). -/
  taskA : Task
  /-- Task B's storage (30_encoding.md R81). -/
  taskB : Task
  /-- The OPEN parameters (00_scope.md R8); no step writes them (log 3). -/
  params : Params
  /-- The steps the agents take next, the first one first (20_memory.md R60; log 1). -/
  schedule : List Event
  /-- How many steps have been taken: the argument of the free values (log 1). -/
  moves : Nat
  /-- The agent whose action is being executed (30_encoding.md R78; log 5). -/
  port : Agent
  /-- The draws for the action being executed (60_exceptions.md R194; log 2). -/
  draws : Draws
  /-- What the latest action responded, and to whom; none where it responds nothing (30_encoding.md R79; log 5). -/
  response : Option Delivery
  deriving DecidableEq, Repr, Inhabited

/-- Why a step can stop. -/
inductive Fault
  /-- Raised by every meaning, and by `step` on an illegal word, where `FAULT_CODE` is not 0: the block "executes no
  further action" and the presenting agent "has no step" (60_exceptions.md R182; 93_implementation_defined.md U10: stuck).
  Safe: the model stops where the spec gives no step (log 8). -/
  | halted
  deriving DecidableEq, Repr, Inhabited

/-- Why an instruction has no meaning in the model. -/
inductive Refusal
  /-- Raised by an arm of `exec` whose instruction has no meaning yet. No arm does so now. Safe. -/
  | notModelled (mnemonic : String)
  deriving DecidableEq, Repr, Inhabited

/-- The reset values of the block (10_state.md R38, 70_reset_and_hazards.md R200); `QSTATE_INIT` is OPEN. -/
def Block.reset (p : Params) : Block where
  encoders := p.qstateInit.map fun q => { raw := 0, qstate := q, offset := 0, last := 0 }
  buttons := Vector.replicate Config.nBtn { pressed := false, lastPressUs := 0 }
  tbUs := 0
  frame := []
  txbuf := []
  faultCode := 0
  faultWord := 0

/-- A task before its first cycle (DESIGN CHOICE, unsafe: log 4). -/
def Task.reset : Task where
  stage := .pos0
  p := 0
  ts := 0
  r0 := 0
  r1 := 0
  r2 := 0
  r3 := 0
  r4 := 0
  r5 := 0
  r6 := 0
  r7 := .fail

/-- The machine right after reset (70_reset_and_hazards.md R200-R202): the block at its reset values, the OPEN parameters
free, nothing scheduled. -/
def State.reset : State where
  block := Block.reset Config.openParams
  taskA := Task.reset
  taskB := Task.reset
  params := Config.openParams
  schedule := []
  moves := 0
  port := .taskB
  draws := Config.freeDraws 0
  response := none

end Sys2Proof.Machine
end

