-- ==== Sys2Proof/Machine/Ops.lean ====
section
/-! DEFINITION. The named operations: buffers in canonical form, access to encoders and buttons, the common preamble of
every action, responses, fault entry, and the environment's steps. -/

namespace Sys2Proof.Machine

/-! ### Buffers (20_memory.md R50-R56) -/

/-- The byte an address holds; an unlisted address holds 0x00. -/
def Memory.byte : Memory → Nat → Byte
  | [], _ => 0#8
  | (x, v) :: m, a => if a = x then v else Memory.byte m a

/-- The byte at an address of the space, none outside 0..24 (20_memory.md R50). -/
def Memory.read? (m : Memory) (a : Nat) : Option Byte :=
  if a < Config.frameSize then some (m.byte a) else none

/-- Set the byte at an address, keeping the canonical form: 0x00 is never listed. -/
def Memory.put : Memory → Nat → Byte → Memory
  | [], a, b => if b = 0#8 then [] else [(a, b)]
  | (x, v) :: m, a, b =>
    if a < x then (if b = 0#8 then (x, v) :: m else (a, b) :: (x, v) :: m)
    else if a = x then (if b = 0#8 then m else (a, b) :: m)
    else (x, v) :: Memory.put m a b

/-- Write one byte; the space has no address above 24 (20_memory.md R50), and no action writes there. -/
def Memory.write (m : Memory) (a : Nat) (b : Byte) : Memory :=
  if a < Config.frameSize then m.put a b else m

/-- Write consecutive bytes from an address up. -/
def Memory.store : Memory → Nat → List Byte → Memory
  | m, _, [] => m
  | m, a, b :: bs => Memory.store (m.write a b) (a + 1) bs

/-- The buffer whose bytes are the given ones: a buffer is only ever written as a whole (20_memory.md R56). -/
def Memory.ofBytes (bs : List Byte) : Memory := Memory.store [] 0 bs

/-- The 25 bytes of a buffer in address order (20_memory.md R54). -/
def Memory.bytes (m : Memory) : List Byte := (List.range Config.frameSize).map m.byte

/-- Listed addresses rise from at least `lo`, lie in the space, and hold no 0x00. -/
def Memory.wfFrom : Nat → Memory → Bool
  | _, [] => true
  | lo, (a, b) :: m =>
    decide (lo ≤ a) && decide (a < Config.frameSize) && decide (b ≠ 0#8) && Memory.wfFrom (a + 1) m

/-- The canonical form of a buffer. -/
def Memory.wf (m : Memory) : Bool := Memory.wfFrom 0 m

/-! ### Encoders and buttons -/

/-- The state of encoder `e`. -/
def Block.encoder (b : Block) (e : Fin Config.nEnc) : Encoder := b.encoders.get e

/-- Replace the state of encoder `e`. -/
def Block.setEncoder (b : Block) (e : Fin Config.nEnc) (v : Encoder) : Block :=
  { b with encoders := b.encoders.set e v }

/-- The state of button `i`. -/
def Block.button (b : Block) (i : Fin Config.nBtn) : Button := b.buttons.get i

/-- Replace the state of button `i`. -/
def Block.setButton (b : Block) (i : Fin Config.nBtn) (v : Button) : Block :=
  { b with buttons := b.buttons.set i v }

/-- `PRESSED[i] <- false` for every button; `LAST_PRESS_US` stays (41_input.md R134). -/
def Block.clearPressed (b : Block) : Block :=
  { b with buttons := b.buttons.map fun v => { v with pressed := false } }

/-! ### Faults (60_exceptions.md R180-R182) -/

/-- The fault codes (60_exceptions.md R180). -/
inductive FaultCode
  | illegalAction
  | badIndex
  | zeroPeriod
  | velRange
  deriving DecidableEq, Repr, Inhabited

/-- The number of a fault code (60_exceptions.md R180). -/
def FaultCode.number : FaultCode → BitVec 8
  | .illegalAction => 1
  | .badIndex => 2
  | .zeroPeriod => 3
  | .velRange => 4

/-- The block's part of fault entry: the first fault's code and word are recorded, nothing else changes
(60_exceptions.md R181). -/
def Block.enterFault (b : Block) (code : FaultCode) (w : Word) : Block :=
  if b.faultCode = 0#8 then { b with faultCode := code.number, faultWord := w } else b

/-- Fault entry while executing word `w`: the action ends and no response is delivered (60_exceptions.md R181). -/
def raise (code : FaultCode) (w : Word) (s : State) : State :=
  { s with block := s.block.enterFault code w, response := none }

/-- Whether the block executes actions: no fault has occurred (60_exceptions.md R182). -/
def Block.running (b : Block) : Bool := decide (b.faultCode = 0#8)

/-! ### The shape of an action -/

/-- The outcome of a step of this machine. -/
abbrev Result := Host.Outcome State Fault Refusal

/-- The preamble of every action: a faulted block executes none (40_encoder.md R100, 41_input.md R130,
42_telemetry.md R150, 60_exceptions.md R182). -/
def act (s : State) (r : Result) : Result :=
  if s.block.running then r else .fault .halted

/-- The action completes: the block's new state, and the response to the agent that presented it (30_encoding.md R79). -/
def complete (s : State) (b : Block) (r : Option Response) : Result :=
  .next { s with block := b, response := r.map fun v => ⟨s.port, v⟩ }

/-- The action faults. -/
def faults (s : State) (code : FaultCode) (w : Word) : Result := .next (raise code w s)

/-- The preamble of every encoder action: `BAD_INDEX` unless the index names an encoder (40_encoder.md R100). -/
def actOnEncoder (s : State) (e : Nat) (w : Word) (k : Fin Config.nEnc → Result) : Result :=
  act s (if h : e < Config.nEnc then k ⟨e, h⟩ else faults s .badIndex w)

/-! ### The environment's steps -/

/-- `TICK(k)` (60_exceptions.md R195). -/
def tick (k : Nat) (s : State) : State :=
  { s with block := { s.block with tbUs := s.block.tbUs + BitVec.ofNat 64 k } }

/-- Reset: the block at its reset values (70_reset_and_hazards.md R200); the tasks start their cycles anew after it
(R202; log 4). -/
def resetAll (s : State) : State :=
  { s with block := Block.reset s.params, taskA := Task.reset, taskB := Task.reset, response := none }

/-- What the action about to be executed is presented with: its agent and the environment's draws for it. -/
def latch (a : Agent) (d : Draws) (s : State) : State := { s with port := a, draws := d }

/-- The step being taken leaves the schedule. -/
def advance (s : State) : State := { s with schedule := s.schedule.tail, moves := s.moves + 1 }

/-- The next step of the schedule; where none is listed, a free one (20_memory.md R60; log 1). -/
def nextEvent (s : State) : Event :=
  match s.schedule with
  | [] => Config.freeEvent s.moves
  | ev :: _ => ev

end Sys2Proof.Machine
end

