-- ==== Sys2Proof/Machine/Operands.lean ====
section
/-! DEFINITION. What the actions compute from their operands, the state and the draws: quadrature decoding, limits, the raw
read, velocity, fixed point, the frame's bytes, ADC samples, the pin map, and the master's unpacking. -/

namespace Sys2Proof.Machine

/-! ### Numbers and bytes (00_scope.md R10) -/

/-- `wrap_32`. -/
def wrap32 (z : Int) : S32 := BitVec.ofInt 32 z

/-- The `n` lowest bytes of a value, least significant first (20_memory.md R51, R54). -/
def leBytes {w : Nat} (n : Nat) (v : BitVec w) : List Byte :=
  (List.range n).map fun k => v.extractLsb' (8 * k) 8

/-- The unsigned value of bytes assembled least significant first (42_telemetry.md R154). -/
def leValue : List Byte → Nat
  | [] => 0
  | b :: bs => b.toNat + 256 * leValue bs

/-- `MemWrite(space, a, n, v)` (00_scope.md R10). -/
def memWrite {w : Nat} (m : Memory) (a n : Nat) (v : BitVec w) : Memory := m.store a (leBytes n v)

/-! ### Encoder (40_encoder.md) -/

/-- The levels `{a, b}` as a 2-bit number (40_encoder.md R101). -/
def levels (a b : Bool) : BitVec 2 := BitVec.ofBool a ++ BitVec.ofBool b

/-- The quadrature transition table, rows by old state, columns by new (40_encoder.md R103). -/
def qtabRows : Vector (Vector Int 4) 4 :=
  #v[#v[0, -1, 1, 0],
     #v[1, 0, 0, -1],
     #v[-1, 0, 0, 1],
     #v[0, 1, -1, 0]]

/-- `QTAB[old][new]` (40_encoder.md R103). -/
def qtab (old new : BitVec 2) : Int := (qtabRows.get old.toFin).get new.toFin

/-- The limit function under each policy (40_encoder.md R102). -/
def limit (policy : LimitPolicy) (z : Int) : Int :=
  match policy with
  | .zero => if Config.cntHigh ≤ z ∨ z ≤ Config.cntLow then 0 else z
  | .saturate => min Config.cntHigh (max Config.cntLow z)
  | .wrap =>
    let modulus := Config.cntHigh - Config.cntLow + 1
    if Config.cntHigh < z then z - modulus else if z < Config.cntLow then z + modulus else z

/-- An encoder after a phase change to the levels `new` (40_encoder.md R101). -/
def Encoder.phase (policy : LimitPolicy) (new : BitVec 2) (c : Encoder) : Encoder :=
  let delta := qtab c.qstate new
  { c with
    qstate := new
    raw := if delta = 0 then c.raw else wrap32 (limit policy (c.raw.toInt + delta)) }

/-- Whether the raw read succeeds: a draw, possible to fail only when `CNT_FAIL_ENABLED` (40_encoder.md R104). -/
def rawReadOk (d : Draws) : Bool := !Config.cntFailEnabled || d.cntOk

/-- The sum of raw count and offset (10_state.md R26). -/
def Encoder.position (c : Encoder) : S32 := wrap32 (c.raw.toInt + c.offset.toInt)

/-- The position a read returns: the sum, or on a failed read the offset (40_encoder.md R104). -/
def readPosition (ok : Bool) (c : Encoder) : S32 := if ok then c.position else c.offset

/-- An encoder after a logical reset; a failed raw read changes nothing (40_encoder.md R105). -/
def Encoder.logicalReset (ok : Bool) (c : Encoder) : Encoder :=
  if ok then { c with offset := wrap32 (-c.raw.toInt), last := 0 } else c

/-- `VelOf(d, p) = d * 1000 / p`, exact (40_encoder.md R108). -/
def velOf (d : Int) (p : Nat) : Vel := mkRat (d * 1000) p

/-- The count change since the baseline, an exact integer (40_encoder.md R107). -/
def velDelta (c : Encoder) (pos : S32) : Int := pos.toInt - c.last.toInt

/-! ### Input (41_input.md) -/

/-- `adc_read`: a sample in 0..4095, or 0 on a failed read (41_input.md R133). -/
def adcRead (ok : Bool) (sample : BitVec 12) : BitVec 16 :=
  if !Config.adcFailEnabled || ok then sample.setWidth 16 else 0

/-- `PIN_MAP(pin)`: the button of a pin, none where the pin is unmapped (41_input.md R131). -/
def pinMap (p : Params) (pin : Nat) : Option (Fin Config.nBtn) :=
  (List.finRange Config.nBtn).find? fun b => (p.pinOf.get b).map Fin.val == some pin

/-! ### Telemetry (42_telemetry.md) -/

/-- `trunc(v * VEL_SCALE)`, toward zero, over the exact rational: numerator times scale over denominator
(42_telemetry.md R152). -/
def fixedPoint (v : Vel) : Int := Int.tdiv (v.num * Config.velScale) v.den

/-- `ToFix`: none where the fixed-point value is outside s32 (42_telemetry.md R152). -/
def toFix (v : Vel) : Option S32 :=
  let z := fixedPoint v
  if z < -(2 ^ 31) ∨ 2 ^ 31 - 1 < z then none else some (wrap32 z)

/-- `FrameBytes`: the 25 bytes of a record whose velocities have the fixed-point values `q0`, `q1`
(42_telemetry.md R153, 20_memory.md R52). -/
def frameBytes (r : PackRecord) (q0 q1 : S32) : List Byte :=
  leBytes 4 r.pos0 ++ leBytes 4 q0 ++ leBytes 4 r.pos1 ++ leBytes 4 q1 ++ leBytes 4 r.ts
    ++ leBytes 1 r.flags ++ leBytes 2 r.vol ++ leBytes 2 r.sld

/-- Whether a bus write succeeds: a draw, possible to fail only when `PUB_FAIL_ENABLED` (42_telemetry.md R155). -/
def busWriteOk (d : Draws) : Bool := !Config.pubFailEnabled || d.pubOk

/-- The bytes of a master read of `n` bytes: the frame from byte 0 on, and free bytes beyond it
(42_telemetry.md R157). -/
def masterBytes (tx : Memory) (moves n : Nat) : List Byte :=
  (List.range n).map fun k => (tx.read? k).getD (Config.freeByte moves k)

/-- The fields a master unpacks from a frame (42_telemetry.md R154). -/
structure Unpacked where
  pos0 : Int
  q0 : Int
  pos1 : Int
  q1 : Int
  ts : Nat
  flags : Nat
  vol : Nat
  sld : Nat
  deriving DecidableEq, Repr, Inhabited

/-- Bytes `a`..`a + n - 1` of a frame as an unsigned value (42_telemetry.md R154). -/
def fieldOf (f : List Byte) (a n : Nat) : Nat := leValue ((f.drop a).take n)

/-- Unpacking, the master's side (42_telemetry.md R154). -/
def unpack (f : List Byte) : Unpacked where
  pos0 := (BitVec.ofNat 32 (fieldOf f 0 4)).toInt
  q0 := (BitVec.ofNat 32 (fieldOf f 4 4)).toInt
  pos1 := (BitVec.ofNat 32 (fieldOf f 8 4)).toInt
  q1 := (BitVec.ofNat 32 (fieldOf f 12 4)).toInt
  ts := fieldOf f 16 4
  flags := fieldOf f 20 1
  vol := fieldOf f 21 2
  sld := fieldOf f 23 2

end Sys2Proof.Machine
end

