-- ==== Sys2Proof/Machine/Flags.lean ====
section
/-! DEFINITION. The flags: debouncing of `PRESSED` and its aggregation into the flags byte (41_input.md R131, R132). -/

namespace Sys2Proof.Machine

/-- The time since a button's last accepted edge, modulo 2^64 (41_input.md R131). -/
def elapsedUs (now last : Micros) : Nat := (now - last).toNat

/-- Whether an edge is accepted: strictly more than the window has elapsed (41_input.md R131, 90_conflicts.md C1). -/
def edgeAccepted (now : Micros) (v : Button) : Bool := decide (Config.debounceUs < elapsedUs now v.lastPressUs)

/-- A button after an edge presented at `now` (41_input.md R131). -/
def Button.edge (now : Micros) (v : Button) : Button :=
  if edgeAccepted now v then { pressed := true, lastPressUs := now } else v

/-- `flags` with bit `i` set where button `i` is pressed (41_input.md R132). -/
def buttonFlags (b : Block) : BitVec 8 :=
  (List.finRange Config.nBtn).foldl
    (fun flags i => if (b.button i).pressed then flags ||| (1#8 <<< i.val) else flags) 0#8

end Sys2Proof.Machine
end

