-- ==== Sys2Proof/Machine/EncoderActions.lean ====
section
/-! DEFINITION. The encoder actions: `QIN`, `ENC.RESET`, `ENC.POS`, `ENC.VEL` (40_encoder.md R101, R105-R107). -/

namespace Sys2Proof.Machine

/-- `ENC.RESET e` (40_encoder.md R105). -/
def execEncReset (e : Nat) (s : State) : Result :=
  actOnEncoder s e (encode (.encReset e)) fun i =>
    complete s (s.block.setEncoder i ((s.block.encoder i).logicalReset (rawReadOk s.draws))) none

/-- `ENC.POS e` (40_encoder.md R106). -/
def execEncPos (e : Nat) (s : State) : Result :=
  actOnEncoder s e (encode (.encPos e)) fun i =>
    complete s s.block (some (.position (readPosition (rawReadOk s.draws) (s.block.encoder i))))

/-- `ENC.VEL e, p` (40_encoder.md R107): the index is checked before the period (60_exceptions.md R183). -/
def execEncVel (e p : Nat) (s : State) : Result :=
  actOnEncoder s e (encode (.encVel e p)) fun i =>
    let c := s.block.encoder i
    let pos := readPosition (rawReadOk s.draws) c
    if p = 0 then faults s .zeroPeriod (encode (.encVel e p))
    else complete s (s.block.setEncoder i { c with last := pos }) (some (.velocity (velOf (velDelta c pos) p)))

/-- `QIN e, a, b` (40_encoder.md R101). -/
def execQin (e : Nat) (a b : Bool) (s : State) : Result :=
  actOnEncoder s e (encode (.qin e a b)) fun i =>
    complete s (s.block.setEncoder i ((s.block.encoder i).phase s.params.limitPolicy (levels a b))) none

end Sys2Proof.Machine
end

