-- ==== Sys2Proof/Machine/InputActions.lean ====
section
/-! DEFINITION. The input actions: `BTN.EDGE`, `IN.SNAP`, `IN.CLR` (41_input.md R131-R134). -/

namespace Sys2Proof.Machine

/-- The block after an edge on a pin; an unmapped pin changes nothing (41_input.md R131). -/
def Block.pinEdge (b : Block) (p : Params) (pin : Nat) : Block :=
  match pinMap p pin with
  | none => b
  | some i => b.setButton i ((b.button i).edge b.tbUs)

/-- `BTN.EDGE pin` (41_input.md R131). -/
def execBtnEdge (pin : Nat) (s : State) : Result :=
  act s (complete s (s.block.pinEdge s.params pin) none)

/-- `IN.SNAP` (41_input.md R132). -/
def execInSnap (s : State) : Result :=
  act s (complete s s.block (some (.snapshot (buttonFlags s.block)
    (adcRead s.draws.volOk s.draws.vol) (adcRead s.draws.sldOk s.draws.sld))))

/-- `IN.CLR` (41_input.md R134). -/
def execInClr (s : State) : Result :=
  act s (complete s s.block.clearPressed none)

end Sys2Proof.Machine
end

