-- ==== Sys2Proof/Machine/TelemetryActions.lean ====
section
/-! DEFINITION. The telemetry actions: `PACK`, `PUB`, `I2C.RD` (42_telemetry.md R151-R157). -/

namespace Sys2Proof.Machine

/-- `PACK` (42_telemetry.md R151): both velocities are converted before any byte is written. -/
def execPack (r : PackRecord) (s : State) : Result :=
  act s (match toFix r.vel0, toFix r.vel1 with
    | some q0, some q1 => complete s { s.block with frame := Memory.ofBytes (frameBytes r q0 q1) } none
    | _, _ => faults s .velRange (encode (.pack r)))

/-- `PUB` (42_telemetry.md R155). -/
def execPub (s : State) : Result :=
  act s (complete s
    { s.block with txbuf := if busWriteOk s.draws then s.block.frame else s.block.txbuf }
    (some (.status (if busWriteOk s.draws then .ok else .fail))))

/-- `I2C.RD n` (42_telemetry.md R157). -/
def execI2cRd (n : Nat) (s : State) : Result :=
  act s (complete s s.block (some (.bytes (masterBytes s.block.txbuf s.moves n))))

end Sys2Proof.Machine
end

