-- ==== Sys2Proof/Machine/Dispatch.lean ====
section
/-! DEFINITION. The one dispatch from actions to their meanings. -/

namespace Sys2Proof.Machine

def exec (i : Instr) (s : State) : Host.Outcome State Fault Refusal :=
  match i with
  | .encReset e => Sys2Proof.Machine.execEncReset e s
  | .encPos e => Sys2Proof.Machine.execEncPos e s
  | .encVel e p => Sys2Proof.Machine.execEncVel e p s
  | .btnEdge pin => Sys2Proof.Machine.execBtnEdge pin s
  | .inSnap => Sys2Proof.Machine.execInSnap s
  | .inClr => Sys2Proof.Machine.execInClr s
  | .pack r => Sys2Proof.Machine.execPack r s
  | .pub => Sys2Proof.Machine.execPub s
  | .qin e a b => Sys2Proof.Machine.execQin e a b s
  | .i2cRd n => Sys2Proof.Machine.execI2cRd n s

end Sys2Proof.Machine
end

