-- ==== Sys2Proof/Machine/Agents.lean ====
section
/-! DEFINITION. The agents: how a presented word is executed, the reference programs of the two tasks, `BTN.PRESS`, and what
each step of the schedule does (30_encoding.md R76-R83, 60_exceptions.md R190). -/

namespace Sys2Proof.Machine

/-- An illegal word: a faulted block executes nothing; otherwise `ILLEGAL_ACTION` (30_encoding.md R76, R77). -/
def illegalWord (w : Word) (s : State) : Result := act s (faults s .illegalAction w)

/-- An agent presents a word with its record: decode, then execute (30_encoding.md R76; 00_scope.md R11). -/
def present (a : Agent) (w : Word) (record : PackRecord) (d : Draws) (s : State) : Result :=
  match decode w record with
  | .ok i => exec i (latch a d s)
  | .error _ => illegalWord w (latch a d s)

/-! ### The tasks' cycles (30_encoding.md R81, R82) -/

/-- The period and timestamp are the arguments of the cycle (30_encoding.md R81, R82); the model takes them from the step that
presents the cycle's first action, and keeps them to its end (DESIGN CHOICE: log 4). -/
def Task.start (t : Task) (p : BitVec 16) (ts : BitVec 32) : Task :=
  if t.stage = .pos0 then { t with p := p, ts := ts } else t

/-- The action a task presents at its stage (30_encoding.md R81, R82). -/
def Task.action (t : Task) : Instr :=
  match t.stage with
  | .pos0 => .encPos 0
  | .vel0 => .encVel 0 t.p.toNat
  | .pos1 => .encPos 1
  | .vel1 => .encVel 1 t.p.toNat
  | .snap => .inSnap
  | .pack => .pack { pos0 := t.r0, vel0 := t.r1, pos1 := t.r2, vel1 := t.r3, ts := t.ts,
                     flags := t.r4, vol := t.r5, sld := t.r6 }
  | .pub => .pub
  | .clr => .inClr

/-- Keep a response in the local that the program names (30_encoding.md R81, R82). -/
def Task.keep (t : Task) : Option Response → Task
  | some (.position v) => if t.stage = .pos0 then { t with r0 := v } else { t with r2 := v }
  | some (.velocity v) => if t.stage = .vel0 then { t with r1 := v } else { t with r3 := v }
  | some (.snapshot f v s) => { t with r4 := f, r5 := v, r6 := s }
  | some (.status st) => { t with r7 := st }
  | some (.bytes _) => t
  | none => t

/-- Task A's next stage: after the fourth read the cycle starts again (30_encoding.md R82). -/
def Stage.nextA : Stage → Stage
  | .pos0 => .vel0
  | .vel0 => .pos1
  | .pos1 => .vel1
  | _ => .pos0

/-- Task B's next stage: `IN.CLR` only where the publish answered OK (30_encoding.md R81). -/
def Stage.nextB (r7 : PubStatus) : Stage → Stage
  | .pos0 => .vel0
  | .vel0 => .pos1
  | .pos1 => .vel1
  | .vel1 => .snap
  | .snap => .pack
  | .pack => .pub
  | .pub => match r7 with
    | .ok => .clr
    | .fail => .pos0
  | .clr => .pos0

/-- Task A after its action's response. -/
def Task.afterA (t : Task) (r : Option Response) : Task :=
  let u := t.keep r
  { u with stage := u.stage.nextA }

/-- Task B after its action's response. -/
def Task.afterB (t : Task) (r : Option Response) : Task :=
  let u := t.keep r
  { u with stage := u.stage.nextB u.r7 }

/-- The response an agent received from the action just executed. -/
def State.answer (s : State) : Option Response := s.response.map Delivery.value

/-- Task A presents its next action; where the action faults, the task keeps its stage (60_exceptions.md R182;
log 4). -/
def stepTaskA (p : BitVec 16) (d : Draws) (s : State) : Result :=
  let t := s.taskA.start p s.taskA.ts
  match present .taskA (encode t.action) (recordOf t.action) d { s with taskA := t } with
  | .next s' => .next (if s'.block.running then { s' with taskA := t.afterA s'.answer } else s')
  | .fault r => .fault r
  | .refused r => .refused r

/-- Task B presents its next action; where the action faults, the task keeps its stage (60_exceptions.md R182;
log 4). -/
def stepTaskB (p : BitVec 16) (ts : BitVec 32) (d : Draws) (s : State) : Result :=
  let t := s.taskB.start p ts
  match present .taskB (encode t.action) (recordOf t.action) d { s with taskB := t } with
  | .next s' => .next (if s'.block.running then { s' with taskB := t.afterB s'.answer } else s')
  | .fault r => .fault r
  | .refused r => .refused r

/-- The word that `BTN.PRESS b` stands for; none where no pin maps to the button (30_encoding.md R83). -/
def btnPressWord (p : Params) (b : Fin Config.nBtn) : Option Word :=
  match p.pinOf.get b with
  | none => none
  | some pin => if pinMap p pin.val = some b then some (encode (.btnEdge pin.val)) else none

/-! ### One step of the schedule -/

/-- What one step of an agent or of the environment does (60_exceptions.md R190). -/
def runEvent (ev : Event) (s : State) : Result :=
  match ev with
  | .present a w record d => present a w record d s
  | .taskA p d => stepTaskA p d s
  | .taskB p ts d => stepTaskB p ts d s
  | .tick more => .next (tick (more + 1) s)
  | .masterWrite _ => .next s
  | .reset => .next (resetAll s)

/-- The agent that presents a placed action (log 9): the owner by 70_reset_and_hazards.md R213, and Task B for the actions
either task may present. A `QIN` whose index is 2..15 has no owner, since there is no such phase agent: that Task B presents
it is the model's choice (DESIGN CHOICE: log 9). -/
def ownerOf : Instr → Agent
  | .btnEdge _ => .edge
  | .qin e _ _ => if h : e < Config.nEnc then .qphase ⟨e, h⟩ else .taskB
  | .i2cRd _ => .master
  | _ => .taskB

/-- The agent that presents a word placed by `State.withFetchWord` (log 9). -/
def presenterOf (w : Word) : Agent :=
  match decode w PackRecord.zero with
  | .ok i => ownerOf i
  | .error _ => .taskB

/-- A state whose next step is that the word's agent presents it, with the record of zeros and free draws (log 9). -/
def placeWord (w : Word) (s : State) : State :=
  { s with schedule := .present (presenterOf w) w PackRecord.zero (Config.freeDraws s.moves) :: s.schedule }

end Sys2Proof.Machine
end

