-- ==== Sys2Proof/Machine/Step.lean ====
section
/-! DEFINITION. One step of the machine: the next step of the schedule is taken (20_memory.md R60). -/

namespace Sys2Proof.Machine

/-- One step: the schedule's next step, taken on the state in which it has left the schedule (20_memory.md R60). -/
def step (s : State) : Host.Outcome State Fault Refusal := runEvent (nextEvent s) (advance s)

/-- The state whose very next step presents the word `w` to the block (log 9). -/
def State.withFetchWord (s : State) (nbits w : Nat) : State :=
  placeWord (BitVec.ofNat 32 (w % 2 ^ nbits)) s

end Sys2Proof.Machine
end

