-- ==== Sys2Proof/Safety.lean ====
section
/-! DEFINITION. The terms claims use: a running block, the invariant of reachable states, and the ownership discipline the
spec asks of the agents. -/

namespace Sys2Proof.Safety

open Sys2Proof.Machine

/-- The block executes actions: no fault has occurred (60_exceptions.md R182). -/
def Ready (s : State) : Prop := s.block.faultCode = 0#8

/-- The state after fault entry with a code while executing the word `w`: the code and the word are recorded, no response is
delivered, nothing else changes (60_exceptions.md R181). -/
def faulted (s : State) (code : BitVec 8) (w : Word) : State :=
  { s with block := { s.block with faultCode := code, faultWord := w }, response := none }

/-- What holds of each encoder in reachable states: the raw count stays within the limits, and under `ZERO` strictly within
them (10_state.md R22, 40_encoder.md R102); the offset within the limits, the baseline within 20000 of zero
(10_state.md R26, 40_encoder.md R107). -/
structure EncoderInv (policy : LimitPolicy) (c : Encoder) : Prop where
  rawLow : -10000 ≤ c.raw.toInt
  rawHigh : c.raw.toInt ≤ 10000
  rawZero : policy = .zero → -10000 < c.raw.toInt ∧ c.raw.toInt < 10000
  offsetLow : -10000 ≤ c.offset.toInt
  offsetHigh : c.offset.toInt ≤ 10000
  lastLow : -20000 ≤ c.last.toInt
  lastHigh : c.last.toInt ≤ 20000

/-- The buffer holds the reset frame or what some `PACK` wrote (42_telemetry.md R159). -/
def IsFrame (m : Memory) : Prop :=
  m = [] ∨ ∃ (r : PackRecord) (q0 q1 : S32),
    toFix r.vel0 = some q0 ∧ toFix r.vel1 = some q1 ∧ m = Memory.ofBytes (frameBytes r q0 q1)

/-- What holds of the block in reachable states. -/
structure BlockInv (policy : LimitPolicy) (b : Block) : Prop where
  encoders : ∀ e, EncoderInv policy (b.encoder e)
  /-- Both buffers are in canonical form (the model's: log 10). -/
  frameWf : b.frame.wf = true
  txbufWf : b.txbuf.wf = true
  frameIs : IsFrame b.frame
  txbufIs : IsFrame b.txbuf
  /-- "Codes 5..255 are never written" (60_exceptions.md R180). -/
  code : b.faultCode.toNat ≤ 4
  /-- `FAULT_WORD` is 0 when no fault has occurred (10_state.md R33). -/
  word : b.faultCode = 0#8 → b.faultWord = 0#32

/-- Task A's program has only the four encoder reads (30_encoding.md R82); its stage at reset is the model's (log 4). -/
def TaskAInv (t : Task) : Prop :=
  t.stage = .pos0 ∨ t.stage = .vel0 ∨ t.stage = .pos1 ∨ t.stage = .vel1

/-- The invariant: it holds at reset, and every step keeps it. -/
structure Inv (s : State) : Prop where
  block : BlockInv s.params.limitPolicy s.block
  taskA : TaskAInv s.taskA

/-- The forward neighbour in the quadrature cycle 00, 10, 11, 01, 00 (40_encoder.md R103). -/
def forward (q : BitVec 2) : BitVec 2 :=
  if q = 0b00#2 then 0b10#2 else if q = 0b10#2 then 0b11#2 else if q = 0b11#2 then 0b01#2 else 0b00#2

/-- Which actions the discipline lets an agent present (70_reset_and_hazards.md R213, 30_encoding.md R78). The block
does not enforce it (60_exceptions.md R191). -/
def mayPresent (a : Agent) : Instr → Bool
  | .encReset _ => a = .taskA || a = .taskB
  | .encPos _ => a = .taskA || a = .taskB
  | .encVel _ _ => a = .taskA || a = .taskB
  | .btnEdge _ => a = .edge
  | .inSnap => a = .taskB
  | .inClr => a = .taskB
  | .pack _ => a = .taskB
  | .pub => a = .taskB
  | .qin e _ _ => if h : e < Config.nEnc then a = .qphase ⟨e, h⟩ else false
  | .i2cRd _ => a = .master

end Sys2Proof.Safety
end

