-- ==== Sys2Proof/Certificates/Slice0/Obligations.lean ====
section
/-! DEFINITION. The statements for the provers, from the numbered rules of spec/. -/

open Sys2Proof Sys2Proof.Machine Sys2Proof.Safety

/-! ### Encoding (30_encoding.md) -/

/-- Decoding an encoded well-formed action gives it back, every operand at every value its field admits
(30_encoding.md R73-R76, R80). -/
def Obligations.DecodeOfEncodeIsTheAction : Prop :=
  ∀ i : Instr, i.wellFormed = true → decode (encode i) (recordOf i) = .ok i

/-- Each legal word has one action, and that action's word is it (30_encoding.md R73-R76, R80). -/
def Obligations.EncodeOfDecodeIsTheWord : Prop :=
  ∀ (w : Word) (r : PackRecord) (i : Instr), decode w r = .ok i →
    encode i = w ∧ i.wellFormed = true ∧ ∀ r', i = .pack r' → r' = r

/-- 30_encoding.md R76: the row that holds of a word decides its action, at most one row holds, and a word in no row is
illegal and faults `ILLEGAL_ACTION` with `FAULT_WORD = w`. -/
def Obligations.DecodingFollowsTheOneMatchingRow : Prop :=
  (∀ (w : Word) (row : Row), row ∈ opcodeRows → row.holds w = true →
      ∀ r, decode w r = .ok (operandsOf w r row.op)) ∧
  (∀ (w : Word) (row row' : Row), row ∈ opcodeRows → row' ∈ opcodeRows →
      row.holds w = true → row'.holds w = true → row = row') ∧
  (∀ w : Word, (∀ row ∈ opcodeRows, row.holds w = false) → ∀ r, ∃ why, decode w r = .error why) ∧
  (∀ (s : State) (a : Agent) (w : Word) (r : PackRecord) (d : Draws), Ready s →
      (∀ row ∈ opcodeRows, row.holds w = false) → present a w r d s = .next (faulted (latch a d s) 1 w))

/-- 30_encoding.md R77 with the formats of R72: the illegal words are those of a reserved operation code and those with a
must-be-zero field that is not zero; the all-zero word is one; an illegal word faults `ILLEGAL_ACTION`. -/
def Obligations.IllegalWordsAreTheReservedAndTheNonZero : Prop :=
  (∀ (w : Word) (r : PackRecord),
    let op := w.extractLsb' 28 4
    let idx := w.extractLsb' 24 4
    let pin := w.extractLsb' 16 8
    let imm := w.extractLsb' 0 16
    (∃ why, decode w r = .error why) ↔
      (op = 0x0 ∨ op = 0xB ∨ op = 0xC ∨ op = 0xD ∨ op = 0xE ∨ op = 0xF ∨
       ((op = 0x1 ∨ op = 0x2) ∧ ¬ (pin = 0 ∧ imm = 0)) ∨
       (op = 0x3 ∧ ¬ pin = 0) ∨
       (op = 0x4 ∧ ¬ (idx = 0 ∧ imm = 0)) ∨
       ((op = 0x5 ∨ op = 0x6 ∨ op = 0x7 ∨ op = 0x8) ∧ ¬ (idx = 0 ∧ pin = 0 ∧ imm = 0)) ∨
       (op = 0x9 ∧ ¬ (pin = 0 ∧ imm.extractLsb' 2 14 = 0)) ∨
       (op = 0xA ∧ ¬ (idx = 0 ∧ pin = 0)))) ∧
  (∀ r, ∃ why, decode 0#32 r = .error why) ∧
  (∀ (s : State) (a : Agent) (w : Word) (r : PackRecord) (d : Draws) (why : Reject), Ready s →
      decode w r = .error why → present a w r d s = .next (faulted (latch a d s) 1 w))

/-- Words written out from the bit patterns of 30_encoding.md R75, decoded. -/
def Obligations.WordsOfTheTableDecode : Prop :=
  ∀ r : PackRecord,
    decode 0b0001_0001_00000000_0000000000000000#32 r = .ok (.encReset 1) ∧
    decode 0b0011_0000_00000000_0000000011001000#32 r = .ok (.encVel 0 200) ∧
    decode 0b0100_0000_00001101_0000000000000000#32 r = .ok (.btnEdge 13) ∧
    decode 0b0101_0000_00000000_0000000000000000#32 r = .ok .inSnap ∧
    decode 0b0111_0000_00000000_0000000000000000#32 r = .ok (.pack r) ∧
    decode 0b1001_0001_00000000_0000000000000001#32 r = .ok (.qin 1 false true) ∧
    decode 0b1010_0000_00000000_0000000000011001#32 r = .ok (.i2cRd 25)

/-! ### A step -/

/-- A presented word that decodes to an action is executed as that action, on the state in which the step has left the
schedule, the count of steps has advanced, and the presenting agent and the draws of the action are latched; an illegal word
runs into fault entry on that state; and every step takes one step off the schedule, counts it, and leaves the OPEN parameters
(00_scope.md R8, R11, 30_encoding.md R76, 20_memory.md R60; the schedule is the model's: log 1). -/
def Obligations.StepRunsTheDecodedAction : Prop :=
  (∀ (s : State) (a : Agent) (w : Word) (r : PackRecord) (d : Draws) (rest : List Event) (i : Instr),
    s.schedule = .present a w r d :: rest → decode w r = .ok i →
    step s = exec i { s with schedule := rest, moves := s.moves + 1, port := a, draws := d }) ∧
  (∀ (s : State) (a : Agent) (w : Word) (r : PackRecord) (d : Draws) (rest : List Event) (why : Reject), Ready s →
    s.schedule = .present a w r d :: rest → decode w r = .error why →
    step s = .next (faulted { s with schedule := rest, moves := s.moves + 1, port := a, draws := d } 1 w)) ∧
  (∀ s t : State, step s = .next t → t.schedule = s.schedule.tail ∧ t.moves = s.moves + 1 ∧ t.params = s.params)

/-- 60_exceptions.md R195: `TICK(k)`, k >= 1, advances the time base modulo 2^64 and changes nothing else, on a faulted block
too; no other step but reset writes `TB_US`. -/
def Obligations.TickAloneAdvancesTheTimeBase : Prop :=
  (∀ (s : State) (more : Nat), nextEvent s = .tick more →
    ∃ t, step s = .next t ∧
      t.block = { s.block with tbUs := BitVec.ofNat 64 (s.block.tbUs.toNat + (more + 1)) } ∧
      t.taskA = s.taskA ∧ t.taskB = s.taskB) ∧
  (∀ s t : State, step s = .next t → (∀ more, nextEvent s ≠ .tick more) → nextEvent s ≠ .reset →
    t.block.tbUs = s.block.tbUs)

/-- 70_reset_and_hazards.md R200: reset sets every element to its reset value, in the step that resets and in the state the
machine starts from, in every state, and is the only way out of a fault. -/
def Obligations.ResetSetsEveryElement : Prop :=
  (∀ s : State, nextEvent s = .reset → ∃ t, step s = .next t) ∧
  (∀ (s t : State), (nextEvent s = .reset ∧ step s = .next t) ∨ t = State.reset →
    (∀ e, t.block.encoder e = { raw := 0, qstate := t.params.qstateInit.get e, offset := 0, last := 0 }) ∧
    (∀ b, t.block.button b = { pressed := false, lastPressUs := 0 }) ∧
    t.block.tbUs = 0 ∧
    (∀ a < 25, t.block.frame.read? a = some 0 ∧ t.block.txbuf.read? a = some 0) ∧
    t.block.faultCode = 0 ∧ t.block.faultWord = 0) ∧
  (∀ s t : State, step s = .next t → s.block.faultCode ≠ 0 → t.block.faultCode = 0 → nextEvent s = .reset)

/-- 42_telemetry.md R158: a master write transaction changes no block state, on a faulted block neither. -/
def Obligations.MasterWriteChangesNothing : Prop :=
  ∀ (s : State) (data : List Byte), nextEvent s = .masterWrite data → ∃ t, step s = .next t ∧ t.block = s.block

/-! ### Faults (60_exceptions.md) -/

/-- 60_exceptions.md R182: on a faulted block no action has a step, from whichever agent it comes (the outcome `halted`: log
8); `TICK` still advances the time base; only reset clears the fault. -/
def Obligations.FaultedBlockExecutesNoAction : Prop :=
  (∀ (i : Instr) (s : State), s.block.faultCode ≠ 0 → exec i s = .fault .halted) ∧
  (∀ (s : State) (a : Agent) (w : Word) (r : PackRecord) (d : Draws), s.block.faultCode ≠ 0 →
    nextEvent s = .present a w r d → step s = .fault .halted) ∧
  (∀ (s : State) (p : BitVec 16) (ts : BitVec 32) (d : Draws), s.block.faultCode ≠ 0 →
    nextEvent s = .taskA p d ∨ nextEvent s = .taskB p ts d → step s = .fault .halted) ∧
  (∀ (s : State) (more : Nat), s.block.faultCode ≠ 0 → nextEvent s = .tick more →
    ∃ t, step s = .next t ∧
      t.block = { s.block with tbUs := BitVec.ofNat 64 (s.block.tbUs.toNat + (more + 1)) }) ∧
  (∀ s t : State, s.block.faultCode ≠ 0 → step s = .next t → nextEvent s ≠ .reset →
    t.block.faultCode = s.block.faultCode ∧ t.block.faultWord = s.block.faultWord) ∧
  (∀ s : State, s.block.faultCode ≠ 0 → nextEvent s = .reset → ∃ t, step s = .next t ∧ t.block.faultCode = 0)

/-- 40_encoder.md R100: every encoder action on a faulted block has no step, and on a running block faults `BAD_INDEX` where
the index names no encoder, before anything else is read or written. -/
def Obligations.EncoderActionsCheckTheirIndex : Prop :=
  ∀ (s : State) (e p : Nat) (a b : Bool) (i : Instr),
    i = .encReset e ∨ i = .encPos e ∨ i = .encVel e p ∨ i = .qin e a b →
    (s.block.faultCode ≠ 0 → exec i s = .fault .halted) ∧
    (Ready s → 2 ≤ e → exec i s = .next (faulted s 2 (encode i)))

/-- The order of the faults of one action (60_exceptions.md R183): of `ENC.VEL`, the index before the period; of `PACK`, one
code whichever velocity is out of range; and a word that is illegal is so before the operation is known. -/
def Obligations.FaultPriority : Prop :=
  ∀ s : State, Ready s →
    (∀ e p : Nat, 2 ≤ e → exec (.encVel e p) s = .next (faulted s 2 (encode (.encVel e p)))) ∧
    (∀ e : Nat, e < 2 → exec (.encVel e 0) s = .next (faulted s 3 (encode (.encVel e 0)))) ∧
    (∀ r : PackRecord, toFix r.vel0 = none ∨ toFix r.vel1 = none →
      exec (.pack r) s = .next (faulted s 4 0x70000000#32)) ∧
    (∀ (a : Agent) (w : Word) (r : PackRecord) (d : Draws) (why : Reject), decode w r = .error why →
      present a w r d s = .next (faulted (latch a d s) 1 w))

/-- 60_exceptions.md R181: an action that faults records its code and its own word, and changes nothing else; no response is
delivered. -/
def Obligations.FaultsArePrecise : Prop :=
  (∀ (i : Instr) (s t : State), exec i s = .next t → t.block.faultCode ≠ 0 →
    t = faulted s t.block.faultCode (encode i) ∧
      (t.block.faultCode = 2 ∨ t.block.faultCode = 3 ∨ t.block.faultCode = 4)) ∧
  (∀ (s t : State) (a : Agent) (w : Word) (r : PackRecord) (d : Draws), present a w r d s = .next t →
    t.block.faultCode ≠ 0 →
    t = faulted (latch a d s) t.block.faultCode w ∧ 1 ≤ t.block.faultCode.toNat ∧ t.block.faultCode.toNat ≤ 4)

/-! ### Encoder actions (40_encoder.md) -/

/-- 40_encoder.md R101, with the direction read off the forward cycle of R103: the levels are stored, and a step forward or
back moves the count by one through the limit function; an index that names no encoder faults. -/
def Obligations.QinCountsOneStep : Prop :=
  ∀ (s : State) (e : Nat) (a b : Bool), Ready s →
    (∀ he : e < 2,
      let c := s.block.encoder ⟨e, he⟩
      let new := BitVec.ofBool a ++ BitVec.ofBool b
      let delta : Int := if new = forward c.qstate then 1 else if c.qstate = forward new then -1 else 0
      exec (.qin e a b) s = .next { s with
        response := none
        block := s.block.setEncoder ⟨e, he⟩ { c with
          qstate := new
          raw := if delta = 0 then c.raw
                 else BitVec.ofInt 32 (limit s.params.limitPolicy (c.raw.toInt + delta)) } }) ∧
    (2 ≤ e → exec (.qin e a b) s = .next (faulted s 2 (encode (.qin e a b))))

/-- 40_encoder.md R102: the limit function under each policy; for a candidate one step from a count within the limits the
result is within the limits, and under `ZERO` it is no limit. -/
def Obligations.LimitPolicies : Prop :=
  (∀ z : Int, limit .zero z = if 10000 ≤ z ∨ z ≤ -10000 then 0 else z) ∧
  (∀ z : Int, limit .saturate z = if 10000 < z then 10000 else if z < -10000 then -10000 else z) ∧
  (∀ z : Int, limit .wrap z = if 10000 < z then z - 20001 else if z < -10000 then z + 20001 else z) ∧
  (∀ (policy : LimitPolicy) (old z : Int), -10000 ≤ old → old ≤ 10000 → (z = old + 1 ∨ z = old - 1) →
    -10000 ≤ limit policy z ∧ limit policy z ≤ 10000) ∧
  (∀ z : Int, limit .zero z ≠ 10000 ∧ limit .zero z ≠ -10000)

/-- 40_encoder.md R103: the sixteen entries of the quadrature table. -/
def Obligations.QuadratureTable : Prop :=
  (qtab 0 0 = 0 ∧ qtab 0 1 = -1 ∧ qtab 0 2 = 1 ∧ qtab 0 3 = 0) ∧
  (qtab 1 0 = 1 ∧ qtab 1 1 = 0 ∧ qtab 1 2 = 0 ∧ qtab 1 3 = -1) ∧
  (qtab 2 0 = -1 ∧ qtab 2 1 = 0 ∧ qtab 2 2 = 0 ∧ qtab 2 3 = 1) ∧
  (qtab 3 0 = 0 ∧ qtab 3 1 = 1 ∧ qtab 3 2 = -1 ∧ qtab 3 3 = 0) ∧
  (∀ old new : BitVec 2, qtab old new = 1 ↔ new = forward old) ∧
  (∀ old new : BitVec 2, qtab old new = -1 ↔ old = forward new)

/-- 40_encoder.md R105: a successful raw read sets the offset to the negated count and the baseline to 0, a failed one changes
nothing; the count is not changed; within the limits the negation does not wrap. -/
def Obligations.EncResetZeroesThePosition : Prop :=
  ∀ (s : State) (e : Nat), Ready s →
    (∀ he : e < 2,
      let c := s.block.encoder ⟨e, he⟩
      exec (.encReset e) s = .next { s with
        response := none
        block := if s.draws.cntOk
          then s.block.setEncoder ⟨e, he⟩ { c with offset := BitVec.ofInt 32 (-c.raw.toInt), last := 0 }
          else s.block } ∧
      (-10000 ≤ c.raw.toInt → c.raw.toInt ≤ 10000 → (BitVec.ofInt 32 (-c.raw.toInt)).toInt = -c.raw.toInt)) ∧
    (2 ≤ e → exec (.encReset e) s = .next (faulted s 2 (encode (.encReset e))))

/-- 40_encoder.md R106, R104: the position is the sum of count and offset, or the offset where the raw read fails; no state of
the block changes. -/
def Obligations.EncPosRespondsThePosition : Prop :=
  ∀ (s : State) (e : Nat), Ready s →
    (∀ he : e < 2,
      let c := s.block.encoder ⟨e, he⟩
      exec (.encPos e) s = .next { s with
        response := some ⟨s.port, .position (if s.draws.cntOk then BitVec.ofInt 32 (c.raw.toInt + c.offset.toInt)
          else c.offset)⟩ }) ∧
    (2 ≤ e → exec (.encPos e) s = .next (faulted s 2 (encode (.encPos e))))

/-- 40_encoder.md R107, R108: the response is the rational (position - baseline) * 1000 / p, and the position read becomes the
baseline, on a failed read too; the index is checked before the period; in reachable states the count change is at most
40000. -/
def Obligations.EncVelRespondsTheVelocity : Prop :=
  ∀ (s : State) (e p : Nat), Ready s →
    (∀ he : e < 2,
      let c := s.block.encoder ⟨e, he⟩
      let pos := if s.draws.cntOk then BitVec.ofInt 32 (c.raw.toInt + c.offset.toInt) else c.offset
      let d : Int := pos.toInt - c.last.toInt
      (p ≠ 0 → exec (.encVel e p) s = .next { s with
        block := s.block.setEncoder ⟨e, he⟩ { c with last := pos }
        response := some ⟨s.port, .velocity ((d : Rat) * 1000 / (p : Rat))⟩ }) ∧
      (p = 0 → exec (.encVel e p) s = .next (faulted s 3 (encode (.encVel e p)))) ∧
      (Inv s → -40000 ≤ d ∧ d ≤ 40000)) ∧
    (2 ≤ e → exec (.encVel e p) s = .next (faulted s 2 (encode (.encVel e p))))

/-- In reachable states the position never wraps: a successful read responds exactly count plus offset, at most 20000 from
zero (10_state.md R26). -/
def Obligations.PositionNeverWraps : Prop :=
  ∀ (s : State) (e : Nat) (he : e < 2), Inv s → Ready s → s.draws.cntOk = true →
    ∃ (t : State) (pos : S32), exec (.encPos e) s = .next t ∧ t.response = some ⟨s.port, .position pos⟩ ∧
      pos.toInt = (s.block.encoder ⟨e, he⟩).raw.toInt + (s.block.encoder ⟨e, he⟩).offset.toInt ∧
      -20000 ≤ pos.toInt ∧ pos.toInt ≤ 20000

/-- Immediately after a successful `ENC.RESET e` a successful `ENC.POS e` responds 0, whatever the count; and a phase change
in between shows as its own movement alone (40_encoder.md R109). -/
def Obligations.PositionIsZeroAfterReset : Prop :=
  ∀ (s : State) (e : Nat) (he : e < 2), Ready s → s.draws.cntOk = true →
    ∃ t, exec (.encReset e) s = .next t ∧ Ready t ∧
      (∃ u, exec (.encPos e) t = .next u ∧ u.response = some ⟨s.port, .position 0⟩) ∧
      (∀ a b : Bool, ∃ u v, exec (.qin e a b) t = .next u ∧ exec (.encPos e) u = .next v ∧
        v.response = some ⟨s.port, .position (BitVec.ofInt 32
          ((u.block.encoder ⟨e, he⟩).raw.toInt - (s.block.encoder ⟨e, he⟩).raw.toInt))⟩)

/-- The shared baseline (70_reset_and_hazards.md R210): a velocity measures the movement since the latest `ENC.VEL` of that
encoder by any agent with any period; `u` is any later state whose baseline no action has moved since. -/
def Obligations.VelocityMeasuresFromTheLatestRead : Prop :=
  ∀ (s t u : State) (e p q : Nat) (he : e < 2), Ready s → Ready u → p ≠ 0 → q ≠ 0 →
    s.draws.cntOk = true → u.draws.cntOk = true →
    exec (.encVel e p) s = .next t →
    (u.block.encoder ⟨e, he⟩).last = (t.block.encoder ⟨e, he⟩).last →
    ∃ v, exec (.encVel e q) u = .next v ∧
      v.response = some ⟨u.port, .velocity
        (((((u.block.encoder ⟨e, he⟩).position.toInt - (s.block.encoder ⟨e, he⟩).position.toInt : Int)) : Rat)
          * 1000 / (q : Rat))⟩

/-! ### Input actions (41_input.md) -/

/-- 41_input.md R131: an unmapped pin does nothing; on a mapped pin the edge is accepted exactly where strictly more than
50000 microseconds have passed, modulo 2^64, since the button's last accepted edge. -/
def Obligations.BtnEdgeDebounces : Prop :=
  ∀ (s : State) (pin : Nat), Ready s →
    (pinMap s.params pin = none → exec (.btnEdge pin) s = .next { s with response := none }) ∧
    (∀ b, pinMap s.params pin = some b →
      let elapsed := (s.block.tbUs.toNat + 2 ^ 64 - (s.block.button b).lastPressUs.toNat) % 2 ^ 64
      (50000 < elapsed → exec (.btnEdge pin) s = .next { s with
        response := none
        block := s.block.setButton b { pressed := true, lastPressUs := s.block.tbUs } }) ∧
      (elapsed ≤ 50000 → exec (.btnEdge pin) s = .next { s with response := none }))

/-- The pin map is a partial injective map from pins 0..255 to buttons, and every such map is one of the model's
(00_scope.md R8; the form of the table is the model's: log 6). -/
def Obligations.PinMapIsPartialAndInjective : Prop :=
  (∀ (p : Params) (pin : Nat) (b : Fin 6), pinMap p pin = some b → pin < 256) ∧
  (∀ (p : Params) (pin pin' : Nat) (b : Fin 6), pinMap p pin = some b → pinMap p pin' = some b → pin = pin') ∧
  (∀ f : Fin 256 → Option (Fin 6), (∀ x y b, f x = some b → f y = some b → x = y) →
    ∃ p : Params, ∀ x : Fin 256, pinMap p x.val = f x)

/-- An edge at most 50000 microseconds after an accepted edge of the same pin is discarded, and so it is after an `IN.CLR`,
where the flag stays clear; one later than that, before the time base comes round, is accepted after an `IN.CLR` and sets the
flag again (41_input.md R135, R134). -/
def Obligations.WindowRunsFromTheAcceptedEdge : Prop :=
  ∀ (s t : State) (pin : Nat) (b : Fin 6) (k : Nat), Ready s → pinMap s.params pin = some b →
    50000 < (s.block.tbUs.toNat + 2 ^ 64 - (s.block.button b).lastPressUs.toNat) % 2 ^ 64 →
    exec (.btnEdge pin) s = .next t → k < 2 ^ 64 →
    (k ≤ 50000 → ∃ u, exec (.btnEdge pin) (tick k t) = .next u ∧ u.block = (tick k t).block) ∧
    (k ≤ 50000 → ∃ u v, exec .inClr (tick k t) = .next u ∧ exec (.btnEdge pin) u = .next v ∧ v.block = u.block ∧
      v.block.button b = { pressed := false, lastPressUs := s.block.tbUs }) ∧
    (50000 < k → ∃ u v, exec .inClr (tick k t) = .next u ∧ (u.block.button b).pressed = false ∧
      exec (.btnEdge pin) u = .next v ∧
      v.block.button b = { pressed := true, lastPressUs := s.block.tbUs + BitVec.ofNat 64 k })

/-- An edge in the first 50 ms after reset is discarded (70_reset_and_hazards.md R203). -/
def Obligations.EarlyEdgeIsDiscarded : Prop :=
  ∀ (s : State) (pin : Nat), Ready s → (∀ b, (s.block.button b).lastPressUs = 0) → s.block.tbUs.toNat ≤ 50000 →
    exec (.btnEdge pin) s = .next { s with response := none }

/-- 41_input.md R132, R133: the response holds bit i set exactly where button i is pressed, bits 6 and 7 clear, and for each
pot its sample in 0..4095, or 0 where its read fails; no state of the block changes. -/
def Obligations.InSnapRespondsTheSnapshot : Prop :=
  ∀ s : State, Ready s →
    ∃ (flags : BitVec 8) (vol sld : BitVec 16),
      exec .inSnap s = .next { s with response := some ⟨s.port, .snapshot flags vol sld⟩ } ∧
      (∀ b : Fin 6, flags.getLsbD b.val = (s.block.button b).pressed) ∧
      flags.getLsbD 6 = false ∧ flags.getLsbD 7 = false ∧
      vol.toNat = (if s.draws.volOk then s.draws.vol.toNat else 0) ∧ vol.toNat ≤ 4095 ∧
      sld.toNat = (if s.draws.sldOk then s.draws.sld.toNat else 0) ∧ sld.toNat ≤ 4095

/-- 41_input.md R134: every flag is cleared, no timestamp changes, nothing else changes. -/
def Obligations.InClrClearsEveryFlag : Prop :=
  ∀ s : State, Ready s →
    ∃ t, exec .inClr s = .next t ∧
      (∀ b : Fin 6, t.block.button b = { pressed := false, lastPressUs := (s.block.button b).lastPressUs }) ∧
      t = { s with block := { s.block with buttons := t.block.buttons }, response := none }

/-! ### Telemetry actions (42_telemetry.md) -/

/-- 42_telemetry.md R151: where both velocities have a fixed-point value the whole frame is replaced, whatever it held, by the
record's bytes, unchecked; otherwise the action faults `VEL_RANGE` and no byte is written. -/
def Obligations.PackReplacesTheFrame : Prop :=
  ∀ (s : State) (r : PackRecord), Ready s →
    (∀ q0 q1 : S32, toFix r.vel0 = some q0 → toFix r.vel1 = some q1 →
      ∃ m : Memory, exec (.pack r) s = .next { s with block := { s.block with frame := m }, response := none } ∧
        ∀ a : Nat, m.read? a = (frameBytes r q0 q1)[a]?) ∧
    (toFix r.vel0 = none ∨ toFix r.vel1 = none → exec (.pack r) s = .next (faulted s 4 0x70000000#32))

/-- The fixed-point conversion truncates the exact rational v * 100 toward zero and has no value outside s32
(42_telemetry.md R152, for `VEL_ARITH = EXACT`). -/
def Obligations.ToFixTruncatesTowardZero : Prop :=
  ∀ v : Rat,
    let z : Int := if 0 ≤ v then ⌊v * 100⌋ else ⌈v * 100⌉
    (-(2 ^ 31) ≤ z ∧ z ≤ 2 ^ 31 - 1 → ∃ q : S32, toFix v = some q ∧ q.toInt = z) ∧
    (z < -(2 ^ 31) ∨ 2 ^ 31 - 1 < z → toFix v = none)

/-- A velocity from `ENC.VEL` packs as the integer part of 100000 * d / p: where it has a fixed-point value that value is this
integer, it has none exactly where the integer is outside s32, and `PACK` writes this integer in the field of the velocity
(42_telemetry.md R152, R153, 40_encoder.md R107). -/
def Obligations.VelocityPacksAsTruncatedQuotient : Prop :=
  ∀ (d : Int) (p : Nat), p ≠ 0 →
    let z := Int.tdiv (100000 * d) p
    fixedPoint (velOf d p) = z ∧
    (∀ q : S32, toFix (velOf d p) = some q → q.toInt = z) ∧
    (toFix (velOf d p) = none ↔ z < -(2 ^ 31) ∨ 2 ^ 31 - 1 < z) ∧
    (∀ (s : State) (r : PackRecord), Ready s → r.vel0 = velOf d p → -(2 ^ 31) ≤ z → z ≤ 2 ^ 31 - 1 →
      toFix r.vel1 ≠ none → ∃ t, exec (.pack r) s = .next t ∧ (unpack t.block.frame.bytes).q0 = z) ∧
    (∀ (s : State) (r : PackRecord), Ready s → r.vel1 = velOf d p → -(2 ^ 31) ≤ z → z ≤ 2 ^ 31 - 1 →
      toFix r.vel0 ≠ none → ∃ t, exec (.pack r) s = .next t ∧ (unpack t.block.frame.bytes).q1 = z)

/-- A velocity of a count change of at most 40000 packs for every period of at least 2 ms; for a period of 1 ms it does not
exactly where the change is beyond 21474 (70_reset_and_hazards.md R217). -/
def Obligations.VelocityFitsTheFrame : Prop :=
  (∀ (d : Int) (p : Nat), -40000 ≤ d → d ≤ 40000 → 2 ≤ p → (toFix (velOf d p)).isSome = true) ∧
  (∀ d : Int, -40000 ≤ d → d ≤ 40000 → (toFix (velOf d 1) = none ↔ 21474 < d ∨ d < -21474))

/-- 42_telemetry.md R153: the 25 bytes of a record, field by field, least significant byte first; and the same buffer results
from the eight field writes on any buffer. -/
def Obligations.FrameBytesLayout : Prop :=
  (∀ (r : PackRecord) (q0 q1 : S32),
    let f := frameBytes r q0 q1
    f.length = 25 ∧
    (∀ k < 4, f[0 + k]? = some (r.pos0.extractLsb' (8 * k) 8)) ∧
    (∀ k < 4, f[4 + k]? = some (q0.extractLsb' (8 * k) 8)) ∧
    (∀ k < 4, f[8 + k]? = some (r.pos1.extractLsb' (8 * k) 8)) ∧
    (∀ k < 4, f[12 + k]? = some (q1.extractLsb' (8 * k) 8)) ∧
    (∀ k < 4, f[16 + k]? = some (r.ts.extractLsb' (8 * k) 8)) ∧
    f[20]? = some r.flags ∧
    (∀ k < 2, f[21 + k]? = some (r.vol.extractLsb' (8 * k) 8)) ∧
    (∀ k < 2, f[23 + k]? = some (r.sld.extractLsb' (8 * k) 8))) ∧
  (∀ (m : Memory) (r : PackRecord) (q0 q1 : S32), m.wf = true →
    memWrite (memWrite (memWrite (memWrite (memWrite (memWrite (memWrite (memWrite m
      0 4 r.pos0) 4 4 q0) 8 4 r.pos1) 12 4 q1) 16 4 r.ts) 20 1 r.flags) 21 2 r.vol) 23 2 r.sld
      = Memory.ofBytes (frameBytes r q0 q1))

/-- 42_telemetry.md R155: a successful publish copies the whole frame and responds OK, a failed one changes nothing and
responds FAIL; no flag is cleared. -/
def Obligations.PubCopiesTheFrameOrFails : Prop :=
  ∀ s : State, Ready s →
    exec .pub s = .next (if s.draws.pubOk
      then { s with block := { s.block with txbuf := s.block.frame }, response := some ⟨s.port, .status .ok⟩ }
      else { s with response := some ⟨s.port, .status .fail⟩ })

/-- 42_telemetry.md R157: a master read of n bytes responds n bytes, the first 25 of them the bus buffer's from byte 0 on, the
others unconstrained; it changes no state of the block. -/
def Obligations.I2cRdRespondsTheBuffer : Prop :=
  ∀ (s : State) (n : Nat), Ready s →
    ∃ bs : List Byte, exec (.i2cRd n) s = .next { s with response := some ⟨s.port, .bytes bs⟩ } ∧
      bs.length = n ∧ ∀ k, k < n → k < 25 → bs[k]? = s.block.txbuf.read? k

/-- The way of a record to the master: after `PACK`, a successful `PUB` and `I2C.RD 25`, the master unpacks exactly the
record's integers, and of each velocity its fixed-point value (42_telemetry.md R151-R157, R154). -/
def Obligations.MasterUnpacksWhatWasPacked : Prop :=
  ∀ (s : State) (r : PackRecord) (q0 q1 : S32), Ready s → s.draws.pubOk = true →
    toFix r.vel0 = some q0 → toFix r.vel1 = some q1 →
    ∃ (t u v : State) (bs : List Byte), exec (.pack r) s = .next t ∧ exec .pub t = .next u ∧
      exec (.i2cRd 25) u = .next v ∧ v.response = some ⟨s.port, .bytes bs⟩ ∧ bs.length = 25 ∧
      unpack bs = { pos0 := r.pos0.toInt, q0 := q0.toInt, pos1 := r.pos1.toInt, q1 := q1.toInt,
                    ts := r.ts.toNat, flags := r.flags.toNat, vol := r.vol.toNat, sld := r.sld.toNat }

/-- Between a `PACK` and its `PUB` the master still reads, of the frame's bytes, what it would have read before the `PACK`; of
the bytes beyond the frame, which are drawn anew at each read, nothing is said (70_reset_and_hazards.md R216,
42_telemetry.md R157). -/
def Obligations.MasterReadsThePublishedFrame : Prop :=
  ∀ (s t : State) (r : PackRecord) (n : Nat), exec (.pack r) s = .next t → Ready t →
    ∃ (u v : State) (bs bs' : List Byte), exec (.i2cRd n) s = .next u ∧ exec (.i2cRd n) t = .next v ∧
      u.response = some ⟨s.port, .bytes bs⟩ ∧ v.response = some ⟨t.port, .bytes bs'⟩ ∧
      bs.length = n ∧ bs'.length = n ∧ ∀ k < 25, bs'[k]? = bs[k]?

/-- The bus buffer changes only by taking the whole frame, or at reset (10_state.md R32, 42_telemetry.md R159): whatever step
is taken. -/
def Obligations.TxbufOnlyTakesTheFrame : Prop :=
  ∀ s t : State, step s = .next t →
    t.block.txbuf = s.block.txbuf ∨ t.block.txbuf = s.block.frame ∨
      (nextEvent s = .reset ∧ ∀ a < 25, t.block.txbuf.read? a = some 0)

/-- Two buffers in canonical form that read alike at every address are the same data (the form is the model's: log 10). -/
def Obligations.BuffersThatReadAlikeAreEqual : Prop :=
  ∀ m m' : Memory, m.wf = true → m'.wf = true → (∀ a < 25, m.read? a = m'.read? a) → m = m'

/-! ### Frames: what an action leaves unchanged -/

/-- `ENC.RESET`, `ENC.VEL` and `QIN`, where they do not fault: the other encoder, every button, the time base, both buffers and
the fault registers stay; of the encoder named, `ENC.RESET` writes the offset and the baseline alone, `ENC.VEL` the baseline
alone, `QIN` the count and the phase alone. -/
def Obligations.EncoderActionsFrame : Prop :=
  ∀ (s t : State) (e p : Nat) (a b : Bool) (i : Instr) (he : e < 2),
    i = .encReset e ∨ i = .encVel e p ∨ i = .qin e a b →
    exec i s = .next t → Ready t →
    (∀ f : Fin 2, f ≠ ⟨e, he⟩ → t.block.encoder f = s.block.encoder f) ∧
    (∀ k, t.block.button k = s.block.button k) ∧ t.block.tbUs = s.block.tbUs ∧
    (∀ x, t.block.frame.read? x = s.block.frame.read? x) ∧ (∀ x, t.block.txbuf.read? x = s.block.txbuf.read? x) ∧
    t.block.faultCode = s.block.faultCode ∧ t.block.faultWord = s.block.faultWord ∧
    ((∀ a' b', i ≠ .qin e a' b') → (t.block.encoder ⟨e, he⟩).raw = (s.block.encoder ⟨e, he⟩).raw ∧
      (t.block.encoder ⟨e, he⟩).qstate = (s.block.encoder ⟨e, he⟩).qstate) ∧
    (i ≠ .encReset e → (t.block.encoder ⟨e, he⟩).offset = (s.block.encoder ⟨e, he⟩).offset) ∧
    (i = .qin e a b → (t.block.encoder ⟨e, he⟩).last = (s.block.encoder ⟨e, he⟩).last)

/-- `ENC.POS`, `IN.SNAP` and `I2C.RD`, where they do not fault, change no state of the block (20_memory.md R57). -/
def Obligations.ReadOnlyActionsFrame : Prop :=
  ∀ (s t : State) (e n : Nat) (i : Instr), i = .encPos e ∨ i = .inSnap ∨ i = .i2cRd n →
    exec i s = .next t → Ready t → t.block = s.block

/-- `BTN.EDGE` and `IN.CLR`: every encoder, the time base, both buffers and the fault registers stay; `BTN.EDGE` changes no
button but its pin's and clears no flag; `IN.CLR` changes no timestamp. -/
def Obligations.ButtonActionsFrame : Prop :=
  ∀ (s t : State) (pin : Nat) (i : Instr), i = .btnEdge pin ∨ i = .inClr → exec i s = .next t →
    (∀ e, t.block.encoder e = s.block.encoder e) ∧ t.block.tbUs = s.block.tbUs ∧
    (∀ x, t.block.frame.read? x = s.block.frame.read? x) ∧ (∀ x, t.block.txbuf.read? x = s.block.txbuf.read? x) ∧
    t.block.faultCode = s.block.faultCode ∧ t.block.faultWord = s.block.faultWord ∧
    (i = .btnEdge pin →
      (∀ k, pinMap s.params pin ≠ some k → t.block.button k = s.block.button k) ∧
      (∀ k, (s.block.button k).pressed = true → (t.block.button k).pressed = true)) ∧
    (i = .inClr → ∀ k, (t.block.button k).lastPressUs = (s.block.button k).lastPressUs)

/-- `PACK` and `PUB`, where they do not fault: every encoder and button, the time base and the fault registers stay; `PACK`
leaves every byte of the bus buffer, `PUB` every byte of the frame. -/
def Obligations.BufferActionsFrame : Prop :=
  ∀ (s t : State) (r : PackRecord) (i : Instr), i = .pack r ∨ i = .pub → exec i s = .next t → Ready t →
    (∀ e, t.block.encoder e = s.block.encoder e) ∧ (∀ k, t.block.button k = s.block.button k) ∧
    t.block.tbUs = s.block.tbUs ∧ t.block.faultCode = s.block.faultCode ∧ t.block.faultWord = s.block.faultWord ∧
    (i = .pack r → ∀ x, t.block.txbuf.read? x = s.block.txbuf.read? x) ∧
    (i = .pub → ∀ x, t.block.frame.read? x = s.block.frame.read? x)

/-- No action changes what is not the block's: the parameters, the tasks' own storage, the schedule, the agent and the draws it
was presented with (10_state.md R20, R35, R37; these fields are the model's). -/
def Obligations.ActionsChangeOnlyTheBlock : Prop :=
  ∀ (i : Instr) (s t : State), exec i s = .next t →
    t = { s with block := t.block, response := t.response }

/-- Who writes what, over all actions (10_state.md R38): each element changes only by the actions the table names. -/
def Obligations.ElementsHaveTheirWritersOnly : Prop :=
  ∀ (i : Instr) (s t : State), exec i s = .next t →
    ((∀ e a b, i ≠ .qin e a b) → ∀ e, (t.block.encoder e).raw = (s.block.encoder e).raw ∧
      (t.block.encoder e).qstate = (s.block.encoder e).qstate) ∧
    ((∀ e, i ≠ .encReset e) → ∀ e, (t.block.encoder e).offset = (s.block.encoder e).offset) ∧
    ((∀ e, i ≠ .encReset e) → (∀ e p, i ≠ .encVel e p) → ∀ e, (t.block.encoder e).last = (s.block.encoder e).last) ∧
    (i ≠ .inClr → ∀ k, (s.block.button k).pressed = true → (t.block.button k).pressed = true) ∧
    ((∀ pin, i ≠ .btnEdge pin) → ∀ k, (t.block.button k).pressed = true → (s.block.button k).pressed = true) ∧
    ((∀ pin, i ≠ .btnEdge pin) → ∀ k, (t.block.button k).lastPressUs = (s.block.button k).lastPressUs) ∧
    t.block.tbUs = s.block.tbUs ∧
    ((∀ r, i ≠ .pack r) → t.block.frame = s.block.frame) ∧
    (i ≠ .pub → t.block.txbuf = s.block.txbuf)

/-! ### Invariants and whole-machine rules -/

/-- The invariant holds at reset, whatever the OPEN parameters are: of the block's elements by their reset values
(70_reset_and_hazards.md R200); that Task A stands at a stage of its program is the model's choice (log 4), and so is the
canonical form of the buffers (log 10). -/
def Obligations.InvariantHoldsAtReset : Prop := Inv State.reset

/-- Every step keeps the invariant: the limits of counts, offsets and baselines, the origin of both buffers, the fault registers
(10_state.md R22, R26, R33; 42_telemetry.md R159; 60_exceptions.md R180). Two of its parts are the model's: the canonical form
of the buffers (log 10), and that Task A, which a reset starts anew (log 4), stands at a stage of its program. -/
def Obligations.EveryStepKeepsTheInvariant : Prop :=
  ∀ s t : State, Inv s → step s = .next t → Inv t

/-- The block does not look at who presents an action: another agent gets the same effect and the same response
(30_encoding.md R78, 60_exceptions.md R191). -/
def Obligations.EffectIsTheSameFromEveryAgent : Prop :=
  ∀ (i : Instr) (s : State) (a : Agent),
    exec i { s with port := a } =
      match exec i s with
      | .next t => .next { t with port := a, response := t.response.map fun d => { d with agent := a } }
      | .fault r => .fault r
      | .refused r => .refused r

/-- An action depends on no draw but those 60_exceptions.md R194 lists for it. -/
def Obligations.DrawsMatterOnlyWhereListed : Prop :=
  ∀ (i : Instr) (s : State) (d : Draws),
    ((∃ e, i = .encReset e ∨ i = .encPos e ∨ ∃ p, i = .encVel e p) → d.cntOk = s.draws.cntOk) →
    (i = .inSnap → d.volOk = s.draws.volOk ∧ d.sldOk = s.draws.sldOk ∧
      (d.volOk = true → d.vol = s.draws.vol) ∧ (d.sldOk = true → d.sld = s.draws.sld)) →
    (i = .pub → d.pubOk = s.draws.pubOk) →
    exec i { s with draws := d } =
      match exec i s with
      | .next t => .next { t with draws := d }
      | .fault r => .fault r
      | .refused r => .refused r

/-- The idempotent actions: the same action again, with the same draws, leaves the block as the first left it
(20_memory.md R57). -/
def Obligations.IdempotentActions : Prop :=
  ∀ (s t : State) (e n : Nat) (r : PackRecord) (i : Instr),
    i = .encReset e ∨ i = .inClr ∨ i = .pack r ∨ i = .pub ∨ i = .encPos e ∨ i = .inSnap ∨ i = .i2cRd n →
    exec i s = .next t → Ready t → ∃ u, exec i t = .next u ∧ u.block = t.block

/-! ### The tasks' programs (30_encoding.md) -/

/-- `CYCLE.B` (30_encoding.md R81), stage by stage: what Task B keeps of each response, the record it packs, that `IN.CLR`
follows a publish that answered OK and no other, and where a stage faults (60_exceptions.md R181). `t.block` is the block after
the stage's action. The task's storage, that `p` and `ts` are taken with the cycle's first action, and that a task whose action
faults keeps its stage are the model's choice (log 4). -/
def Obligations.CycleBFollowsItsProgram : Prop :=
  ∀ (s : State) (p : BitVec 16) (ts : BitVec 32) (d : Draws) (rest : List Event) (b : Task),
    Ready s → s.schedule = .taskB p ts d :: rest → s.taskB = b →
    let c0 := s.block.encoder 0
    let c1 := s.block.encoder 1
    let pos (c : Encoder) : S32 := readPosition d.cntOk c
    (b.stage = .pos0 → ∃ t, step s = .next t ∧ t.block = s.block ∧
      t.taskB = { b with stage := .vel0, p := p, ts := ts, r0 := pos c0 }) ∧
    (b.stage = .vel0 → b.p ≠ 0 → ∃ t, step s = .next t ∧
      t.block = s.block.setEncoder 0 { c0 with last := pos c0 } ∧
      t.taskB = { b with stage := .pos1, r1 := velOf (velDelta c0 (pos c0)) b.p.toNat }) ∧
    (b.stage = .pos1 → ∃ t, step s = .next t ∧ t.block = s.block ∧
      t.taskB = { b with stage := .vel1, r2 := pos c1 }) ∧
    (b.stage = .vel1 → b.p ≠ 0 → ∃ t, step s = .next t ∧
      t.block = s.block.setEncoder 1 { c1 with last := pos c1 } ∧
      t.taskB = { b with stage := .snap, r3 := velOf (velDelta c1 (pos c1)) b.p.toNat }) ∧
    (b.stage = .snap → ∃ t, step s = .next t ∧ t.block = s.block ∧
      t.taskB = { b with stage := .pack, r4 := buttonFlags s.block, r5 := adcRead d.volOk d.vol,
                         r6 := adcRead d.sldOk d.sld }) ∧
    (b.stage = .pack → ∀ q1 q3 : S32, toFix b.r1 = some q1 → toFix b.r3 = some q3 → ∃ t, step s = .next t ∧
      t.block = { s.block with frame := Memory.ofBytes (frameBytes
        { pos0 := b.r0, vel0 := b.r1, pos1 := b.r2, vel1 := b.r3, ts := b.ts, flags := b.r4, vol := b.r5, sld := b.r6 }
        q1 q3) } ∧
      t.taskB = { b with stage := .pub }) ∧
    (b.stage = .pub → d.pubOk = true → ∃ t, step s = .next t ∧
      t.block = { s.block with txbuf := s.block.frame } ∧ t.taskB = { b with stage := .clr, r7 := .ok }) ∧
    (b.stage = .pub → d.pubOk = false → ∃ t, step s = .next t ∧
      t.block = s.block ∧ t.taskB = { b with stage := .pos0, r7 := .fail }) ∧
    (b.stage = .clr → ∃ t, step s = .next t ∧ t.block = s.block.clearPressed ∧ t.taskB = { b with stage := .pos0 }) ∧
    (b.stage = .vel0 → b.p = 0 → ∃ t, step s = .next t ∧
      t.block = { s.block with faultCode := 3, faultWord := 0x30000000#32 } ∧ t.taskB = b) ∧
    (b.stage = .vel1 → b.p = 0 → ∃ t, step s = .next t ∧
      t.block = { s.block with faultCode := 3, faultWord := 0x31000000#32 } ∧ t.taskB = b) ∧
    (b.stage = .pack → toFix b.r1 = none ∨ toFix b.r3 = none → ∃ t, step s = .next t ∧
      t.block = { s.block with faultCode := 4, faultWord := 0x70000000#32 } ∧ t.taskB = b)

/-- `CYCLE.A` (30_encoding.md R82), stage by stage: the four reads in order, each velocity moving the baseline all agents
share, and where a stage faults (60_exceptions.md R181). The task's storage, that `p` is taken with the cycle's first action,
and that a task whose action faults keeps its stage are the model's choice (log 4). -/
def Obligations.CycleAFollowsItsProgram : Prop :=
  ∀ (s : State) (p : BitVec 16) (d : Draws) (rest : List Event) (a : Task),
    Ready s → s.schedule = .taskA p d :: rest → s.taskA = a →
    let c0 := s.block.encoder 0
    let c1 := s.block.encoder 1
    let pos (c : Encoder) : S32 := readPosition d.cntOk c
    (a.stage = .pos0 → ∃ t, step s = .next t ∧ t.block = s.block ∧
      t.taskA = { a with stage := .vel0, p := p, r0 := pos c0 }) ∧
    (a.stage = .vel0 → a.p ≠ 0 → ∃ t, step s = .next t ∧
      t.block = s.block.setEncoder 0 { c0 with last := pos c0 } ∧
      t.taskA = { a with stage := .pos1, r1 := velOf (velDelta c0 (pos c0)) a.p.toNat }) ∧
    (a.stage = .pos1 → ∃ t, step s = .next t ∧ t.block = s.block ∧
      t.taskA = { a with stage := .vel1, r2 := pos c1 }) ∧
    (a.stage = .vel1 → a.p ≠ 0 → ∃ t, step s = .next t ∧
      t.block = s.block.setEncoder 1 { c1 with last := pos c1 } ∧
      t.taskA = { a with stage := .pos0, r3 := velOf (velDelta c1 (pos c1)) a.p.toNat }) ∧
    (a.stage = .vel0 → a.p = 0 → ∃ t, step s = .next t ∧
      t.block = { s.block with faultCode := 3, faultWord := 0x30000000#32 } ∧ t.taskA = a) ∧
    (a.stage = .vel1 → a.p = 0 → ∃ t, step s = .next t ∧
      t.block = { s.block with faultCode := 3, faultWord := 0x31000000#32 } ∧ t.taskA = a)

/-- The tasks' programs keep the ownership discipline (70_reset_and_hazards.md R213). -/
def Obligations.CyclesKeepTheDiscipline : Prop :=
  (∀ t : Task, TaskAInv t → mayPresent .taskA t.action = true) ∧
  (∀ t : Task, mayPresent .taskB t.action = true)

/-- 30_encoding.md R83: `BTN.PRESS b` is `BTN.EDGE` on the pin that maps to button b, and exists only where there is one. -/
def Obligations.BtnPressIsTheEdgeOfItsPin : Prop :=
  ∀ (p : Params) (b : Fin 6),
    (∀ (pin : Nat), pinMap p pin = some b → btnPressWord p b = some (encode (.btnEdge pin))) ∧
    (btnPressWord p b = none ↔ ∀ pin, pinMap p pin ≠ some b)
end

