-- ==== Sys2Proof/Laws/Memory.lean ====
section
/-! SUPPORT. Buffers: every operation keeps the canonical form, and what is read after a write. -/

namespace Sys2Proof.Machine

/-! ### The canonical form -/

theorem Memory.wfFrom_mono {lo lo' : Nat} (h : lo' ≤ lo) {m : Memory} (hm : Memory.wfFrom lo m = true) :
    Memory.wfFrom lo' m = true := by
  cases m with
  | nil => rfl
  | cons c m =>
    simp only [Memory.wfFrom, Bool.and_eq_true, decide_eq_true_eq] at hm ⊢
    exact ⟨⟨⟨h.trans hm.1.1.1, hm.1.1.2⟩, hm.1.2⟩, hm.2⟩

theorem Memory.put_wfFrom {lo a : Nat} (b : Byte) (hlo : lo ≤ a) (ha : a < Config.frameSize) {m : Memory}
    (hm : Memory.wfFrom lo m = true) : Memory.wfFrom lo (Memory.put m a b) = true := by
  induction m generalizing lo with
  | nil => by_cases hb : b = 0#8 <;> simp [Memory.put, Memory.wfFrom, hb, hlo, ha]
  | cons c m ih =>
    obtain ⟨x, v⟩ := c
    simp only [Memory.wfFrom, Bool.and_eq_true, decide_eq_true_eq] at hm
    obtain ⟨⟨⟨hx, hxs⟩, hv⟩, hm⟩ := hm
    unfold Memory.put
    split
    · next hax =>
      split
      · simp [Memory.wfFrom, hx, hxs, hv, hm]
      · next hb => simp [Memory.wfFrom, hlo, ha, hb, hxs, hv, hm, Nat.succ_le_of_lt hax]
    · split
      · next hax =>
        subst hax
        split
        · exact Memory.wfFrom_mono (by omega) hm
        · next hb => simp [Memory.wfFrom, hlo, ha, hb, hm]
      · next h1 h2 => simp [Memory.wfFrom, hx, hxs, hv, ih (by omega) hm]

theorem Memory.write_wf {m : Memory} (hm : m.wf = true) (a : Nat) (b : Byte) : (m.write a b).wf = true := by
  unfold Memory.write
  split
  · next ha => exact Memory.put_wfFrom b (Nat.zero_le a) ha hm
  · exact hm

theorem Memory.store_wf {m : Memory} (hm : m.wf = true) (a : Nat) (bs : List Byte) : (m.store a bs).wf = true := by
  induction bs generalizing m a with
  | nil => exact hm
  | cons b bs ih => exact ih (Memory.write_wf hm a b) (a + 1)

theorem Memory.ofBytes_wf (bs : List Byte) : (Memory.ofBytes bs).wf = true := Memory.store_wf rfl 0 bs

theorem memWrite_wf {w : Nat} {m : Memory} (hm : m.wf = true) (a n : Nat) (v : BitVec w) :
    (memWrite m a n v).wf = true := Memory.store_wf hm a _

theorem reset_frame_wf (p : Params) : (Block.reset p).frame.wf = true := rfl

theorem reset_txbuf_wf (p : Params) : (Block.reset p).txbuf.wf = true := rfl

/-! ### Reading -/

theorem Memory.byte_of_lt {lo a : Nat} (h : a < lo) {m : Memory} (hm : Memory.wfFrom lo m = true) : m.byte a = 0#8 := by
  induction m generalizing lo with
  | nil => rfl
  | cons c m ih =>
    obtain ⟨x, v⟩ := c
    simp only [Memory.wfFrom, Bool.and_eq_true, decide_eq_true_eq] at hm
    obtain ⟨⟨⟨hx, _⟩, _⟩, hm⟩ := hm
    rw [Memory.byte, if_neg (by omega)]
    exact ih (by omega) hm

theorem Memory.byte_put {lo : Nat} {m : Memory} (hm : Memory.wfFrom lo m = true) (a : Nat) (b : Byte) (x : Nat) :
    (Memory.put m a b).byte x = if x = a then b else m.byte x := by
  induction m generalizing lo with
  | nil => by_cases hb : b = 0#8 <;> by_cases hx : x = a <;> simp [Memory.put, Memory.byte, hb, hx]
  | cons c m ih =>
    obtain ⟨y, v⟩ := c
    simp only [Memory.wfFrom, Bool.and_eq_true, decide_eq_true_eq] at hm
    obtain ⟨⟨⟨hy, _⟩, _⟩, hm⟩ := hm
    unfold Memory.put
    split
    · next hay =>
      split
      · next hb =>
        split
        · next hx =>
          subst hx hb
          rw [Memory.byte, if_neg (by omega), Memory.byte_of_lt (by omega) hm]
        · rfl
      · rfl
    · next hay =>
      split
      · next hay' =>
        subst hay'
        split
        · next hb =>
          split
          · next hx => subst hx hb; exact Memory.byte_of_lt (by omega) hm
          · next hx => simp [Memory.byte, hx]
        · by_cases hx : x = a <;> simp [Memory.byte, hx]
      · next hay' =>
        simp only [Memory.byte, ih hm]
        by_cases hx : x = y
        · simp [hx, Ne.symm hay']
        · simp [hx]

theorem Memory.byte_write {m : Memory} (hm : m.wf = true) (a : Nat) (b : Byte) (x : Nat) :
    (m.write a b).byte x = if x = a ∧ a < Config.frameSize then b else m.byte x := by
  unfold Memory.write
  split
  · next ha => rw [Memory.byte_put hm]; simp [ha]
  · next ha => simp [ha]

/-- After consecutive bytes are written from `a` up, each address holds the byte written there, the last address being 24,
and every other address what it held. -/
theorem Memory.byte_store {m : Memory} (hm : m.wf = true) (a : Nat) (bs : List Byte) (x : Nat) :
    (m.store a bs).byte x =
      if h : a ≤ x ∧ x - a < bs.length ∧ x < Config.frameSize then bs[x - a]'h.2.1 else m.byte x := by
  induction bs generalizing m a with
  | nil => simp [Memory.store]
  | cons b bs ih =>
    rw [Memory.store, ih (Memory.write_wf hm a b), Memory.byte_write hm]
    simp only [List.length_cons]
    by_cases hx : x = a
    · subst hx
      by_cases hs : x < Config.frameSize <;> simp [hs]
    · by_cases h1 : a + 1 ≤ x ∧ x - (a + 1) < bs.length ∧ x < Config.frameSize
      · have h2 : a ≤ x ∧ x - a < bs.length + 1 ∧ x < Config.frameSize := by omega
        rw [dif_pos h1, dif_pos h2]
        have h3 : x - a = x - (a + 1) + 1 := by omega
        simp only [h3, List.getElem_cons_succ]
      · have h2 : ¬ (a ≤ x ∧ x - a < bs.length + 1 ∧ x < Config.frameSize) := by omega
        rw [dif_neg h1, dif_neg h2]
        simp [hx]

theorem Memory.byte_ofBytes (bs : List Byte) {x : Nat} (hx : x < Config.frameSize) (hl : x < bs.length) :
    (Memory.ofBytes bs).byte x = bs[x] := by
  rw [Memory.ofBytes, Memory.byte_store rfl, dif_pos ⟨Nat.zero_le x, by omega, hx⟩]
  rfl

/-- A buffer made of a frame's worth of bytes lists those bytes back. -/
theorem Memory.bytes_ofBytes {bs : List Byte} (hl : bs.length = Config.frameSize) : (Memory.ofBytes bs).bytes = bs := by
  refine List.ext_getElem (by simp [Memory.bytes, hl]) fun k _ hk => ?_
  simp [Memory.bytes, Memory.byte_ofBytes bs (hl ▸ hk) hk]

/-- A buffer made of a frame's worth of bytes reads, at every address, what the list holds there. -/
theorem Memory.read?_ofBytes {bs : List Byte} (hl : bs.length = Config.frameSize) (a : Nat) :
    (Memory.ofBytes bs).read? a = bs[a]? := by
  unfold Memory.read?
  split
  · next h => rw [Memory.byte_ofBytes bs h (hl ▸ h), List.getElem?_eq_getElem]
  · next h => rw [List.getElem?_eq_none (by omega)]

theorem leBytes_length {w : Nat} (n : Nat) (v : BitVec w) : (leBytes n v).length = n := by simp [leBytes]

theorem frameBytes_length (r : PackRecord) (q0 q1 : S32) : (frameBytes r q0 q1).length = Config.frameSize := by
  simp [frameBytes, leBytes_length]

end Sys2Proof.Machine
end

