-- ==== Sys2Proof/Laws/Operands.lean ====
section
/-! SUPPORT. The small lemmas of the operand and flag computations. -/

namespace Sys2Proof.Machine

@[simp] theorem rawReadOk_eq (d : Draws) : rawReadOk d = d.cntOk := rfl

@[simp] theorem busWriteOk_eq (d : Draws) : busWriteOk d = d.pubOk := rfl

theorem adcRead_ok (v : BitVec 12) : adcRead true v = v.setWidth 16 := rfl

theorem adcRead_failed (v : BitVec 12) : adcRead false v = 0#16 := rfl

theorem readPosition_ok (c : Encoder) : readPosition true c = c.position := rfl

theorem readPosition_failed (c : Encoder) : readPosition false c = c.offset := rfl

/-- `wrap_32` of a value of s32 is that value (00_scope.md R10). -/
theorem wrap32_toInt {z : Int} (h : -(2 ^ 31) ≤ z) (h' : z ≤ 2 ^ 31 - 1) : (wrap32 z).toInt = z := by
  rw [wrap32, BitVec.toInt_ofInt, Int.bmod_def]
  omega

theorem Memory.read?_of_lt {m : Memory} {a : Nat} (h : a < Config.frameSize) : m.read? a = some (m.byte a) := if_pos h

theorem Memory.read?_of_ge {m : Memory} {a : Nat} (h : ¬ a < Config.frameSize) : m.read? a = none := if_neg h

theorem Button.edge_of_accepted {now : Micros} {v : Button} (h : edgeAccepted now v = true) :
    v.edge now = { pressed := true, lastPressUs := now } := if_pos h

theorem Button.edge_of_discarded {now : Micros} {v : Button} (h : edgeAccepted now v = false) : v.edge now = v :=
  if_neg (by simp [h])

/-- The elapsed time as the difference modulo 2^64 (41_input.md R131). -/
theorem elapsedUs_eq (now last : Micros) : elapsedUs now last = (now.toNat + 2 ^ 64 - last.toNat) % 2 ^ 64 := by
  rw [elapsedUs, BitVec.toNat_sub]
  congr 1
  omega

/-- The pin map answers a button only for that button's own pin (00_scope.md R8). -/
theorem pinMap_some {p : Params} {pin : Nat} {b : Fin Config.nBtn} (h : pinMap p pin = some b) :
    (p.pinOf.get b).map Fin.val = some pin := by
  simpa using List.find?_some h

end Sys2Proof.Machine
end

