-- ==== Sys2Proof/Laws/State.lean ====
section
/-! SUPPORT. One lemma per field per update of the state, so that no later proof unfolds a record update. -/

namespace Sys2Proof.Machine

/-! ### Encoders -/

@[simp] theorem Block.encoder_setEncoder_same (b : Block) (e : Fin Config.nEnc) (v : Encoder) :
    (b.setEncoder e v).encoder e = v := by
  simp [Block.encoder, Block.setEncoder, Vector.get_eq_getElem]

theorem Block.encoder_setEncoder_other (b : Block) {e f : Fin Config.nEnc} (v : Encoder) (h : f ≠ e) :
    (b.setEncoder e v).encoder f = b.encoder f := by
  simp [Block.encoder, Block.setEncoder, Vector.get_eq_getElem, Fin.val_ne_of_ne (Ne.symm h)]

theorem Block.encoder_setEncoder (b : Block) (e f : Fin Config.nEnc) (v : Encoder) :
    (b.setEncoder e v).encoder f = if f = e then v else b.encoder f := by
  split
  · next h => subst h; simp
  · next h => exact b.encoder_setEncoder_other v h

@[simp] theorem Block.setEncoder_setEncoder (b : Block) (e : Fin Config.nEnc) (v w : Encoder) :
    (b.setEncoder e v).setEncoder e w = b.setEncoder e w := by
  simp [Block.setEncoder, Vector.set_set]

@[simp] theorem Block.setEncoder_self (b : Block) (e : Fin Config.nEnc) : b.setEncoder e (b.encoder e) = b := by
  simp [Block.encoder, Block.setEncoder, Vector.get_eq_getElem]

@[simp] theorem Block.setEncoder_button (b : Block) (e : Fin Config.nEnc) (v : Encoder) (i : Fin Config.nBtn) :
    (b.setEncoder e v).button i = b.button i := rfl
@[simp] theorem Block.setEncoder_buttons (b : Block) (e : Fin Config.nEnc) (v : Encoder) :
    (b.setEncoder e v).buttons = b.buttons := rfl
@[simp] theorem Block.setEncoder_tbUs (b : Block) (e : Fin Config.nEnc) (v : Encoder) :
    (b.setEncoder e v).tbUs = b.tbUs := rfl
@[simp] theorem Block.setEncoder_frame (b : Block) (e : Fin Config.nEnc) (v : Encoder) :
    (b.setEncoder e v).frame = b.frame := rfl
@[simp] theorem Block.setEncoder_txbuf (b : Block) (e : Fin Config.nEnc) (v : Encoder) :
    (b.setEncoder e v).txbuf = b.txbuf := rfl
@[simp] theorem Block.setEncoder_faultCode (b : Block) (e : Fin Config.nEnc) (v : Encoder) :
    (b.setEncoder e v).faultCode = b.faultCode := rfl
@[simp] theorem Block.setEncoder_faultWord (b : Block) (e : Fin Config.nEnc) (v : Encoder) :
    (b.setEncoder e v).faultWord = b.faultWord := rfl

/-! ### Buttons -/

@[simp] theorem Block.button_setButton_same (b : Block) (i : Fin Config.nBtn) (v : Button) :
    (b.setButton i v).button i = v := by
  simp [Block.button, Block.setButton, Vector.get_eq_getElem]

theorem Block.button_setButton_other (b : Block) {i j : Fin Config.nBtn} (v : Button) (h : j ≠ i) :
    (b.setButton i v).button j = b.button j := by
  simp [Block.button, Block.setButton, Vector.get_eq_getElem, Fin.val_ne_of_ne (Ne.symm h)]

theorem Block.button_setButton (b : Block) (i j : Fin Config.nBtn) (v : Button) :
    (b.setButton i v).button j = if j = i then v else b.button j := by
  split
  · next h => subst h; simp
  · next h => exact b.button_setButton_other v h

@[simp] theorem Block.setButton_self (b : Block) (i : Fin Config.nBtn) : b.setButton i (b.button i) = b := by
  simp [Block.button, Block.setButton, Vector.get_eq_getElem]

@[simp] theorem Block.setButton_encoder (b : Block) (i : Fin Config.nBtn) (v : Button) (e : Fin Config.nEnc) :
    (b.setButton i v).encoder e = b.encoder e := rfl
@[simp] theorem Block.setButton_encoders (b : Block) (i : Fin Config.nBtn) (v : Button) :
    (b.setButton i v).encoders = b.encoders := rfl
@[simp] theorem Block.setButton_tbUs (b : Block) (i : Fin Config.nBtn) (v : Button) :
    (b.setButton i v).tbUs = b.tbUs := rfl
@[simp] theorem Block.setButton_frame (b : Block) (i : Fin Config.nBtn) (v : Button) :
    (b.setButton i v).frame = b.frame := rfl
@[simp] theorem Block.setButton_txbuf (b : Block) (i : Fin Config.nBtn) (v : Button) :
    (b.setButton i v).txbuf = b.txbuf := rfl
@[simp] theorem Block.setButton_faultCode (b : Block) (i : Fin Config.nBtn) (v : Button) :
    (b.setButton i v).faultCode = b.faultCode := rfl
@[simp] theorem Block.setButton_faultWord (b : Block) (i : Fin Config.nBtn) (v : Button) :
    (b.setButton i v).faultWord = b.faultWord := rfl

@[simp] theorem Block.clearPressed_button (b : Block) (i : Fin Config.nBtn) :
    b.clearPressed.button i = { pressed := false, lastPressUs := (b.button i).lastPressUs } := by
  simp [Block.button, Block.clearPressed, Vector.get_eq_getElem]

@[simp] theorem Block.clearPressed_encoder (b : Block) (e : Fin Config.nEnc) :
    b.clearPressed.encoder e = b.encoder e := rfl
@[simp] theorem Block.clearPressed_encoders (b : Block) : b.clearPressed.encoders = b.encoders := rfl
@[simp] theorem Block.clearPressed_tbUs (b : Block) : b.clearPressed.tbUs = b.tbUs := rfl
@[simp] theorem Block.clearPressed_frame (b : Block) : b.clearPressed.frame = b.frame := rfl
@[simp] theorem Block.clearPressed_txbuf (b : Block) : b.clearPressed.txbuf = b.txbuf := rfl
@[simp] theorem Block.clearPressed_faultCode (b : Block) : b.clearPressed.faultCode = b.faultCode := rfl
@[simp] theorem Block.clearPressed_faultWord (b : Block) : b.clearPressed.faultWord = b.faultWord := rfl

/-! ### Fault entry -/

theorem Block.enterFault_of_zero {b : Block} (h : b.faultCode = 0#8) (c : FaultCode) (w : Word) :
    b.enterFault c w = { b with faultCode := c.number, faultWord := w } := if_pos h

theorem Block.enterFault_of_ne {b : Block} (h : b.faultCode ≠ 0#8) (c : FaultCode) (w : Word) :
    b.enterFault c w = b := if_neg h

@[simp] theorem Block.enterFault_encoders (b : Block) (c : FaultCode) (w : Word) :
    (b.enterFault c w).encoders = b.encoders := by unfold Block.enterFault; split <;> rfl
@[simp] theorem Block.enterFault_encoder (b : Block) (c : FaultCode) (w : Word) (e : Fin Config.nEnc) :
    (b.enterFault c w).encoder e = b.encoder e := by simp [Block.encoder]
@[simp] theorem Block.enterFault_buttons (b : Block) (c : FaultCode) (w : Word) :
    (b.enterFault c w).buttons = b.buttons := by unfold Block.enterFault; split <;> rfl
@[simp] theorem Block.enterFault_button (b : Block) (c : FaultCode) (w : Word) (i : Fin Config.nBtn) :
    (b.enterFault c w).button i = b.button i := by simp [Block.button]
@[simp] theorem Block.enterFault_tbUs (b : Block) (c : FaultCode) (w : Word) :
    (b.enterFault c w).tbUs = b.tbUs := by unfold Block.enterFault; split <;> rfl
@[simp] theorem Block.enterFault_frame (b : Block) (c : FaultCode) (w : Word) :
    (b.enterFault c w).frame = b.frame := by unfold Block.enterFault; split <;> rfl
@[simp] theorem Block.enterFault_txbuf (b : Block) (c : FaultCode) (w : Word) :
    (b.enterFault c w).txbuf = b.txbuf := by unfold Block.enterFault; split <;> rfl

@[simp] theorem raise_block (c : FaultCode) (w : Word) (s : State) :
    (raise c w s).block = s.block.enterFault c w := rfl
@[simp] theorem raise_taskA (c : FaultCode) (w : Word) (s : State) : (raise c w s).taskA = s.taskA := rfl
@[simp] theorem raise_taskB (c : FaultCode) (w : Word) (s : State) : (raise c w s).taskB = s.taskB := rfl
@[simp] theorem raise_params (c : FaultCode) (w : Word) (s : State) : (raise c w s).params = s.params := rfl
@[simp] theorem raise_schedule (c : FaultCode) (w : Word) (s : State) : (raise c w s).schedule = s.schedule := rfl
@[simp] theorem raise_moves (c : FaultCode) (w : Word) (s : State) : (raise c w s).moves = s.moves := rfl
@[simp] theorem raise_port (c : FaultCode) (w : Word) (s : State) : (raise c w s).port = s.port := rfl
@[simp] theorem raise_draws (c : FaultCode) (w : Word) (s : State) : (raise c w s).draws = s.draws := rfl
@[simp] theorem raise_response (c : FaultCode) (w : Word) (s : State) : (raise c w s).response = none := rfl

/-! ### What a step latches, and the environment's steps -/

@[simp] theorem latch_block (a : Agent) (d : Draws) (s : State) : (latch a d s).block = s.block := rfl
@[simp] theorem latch_taskA (a : Agent) (d : Draws) (s : State) : (latch a d s).taskA = s.taskA := rfl
@[simp] theorem latch_taskB (a : Agent) (d : Draws) (s : State) : (latch a d s).taskB = s.taskB := rfl
@[simp] theorem latch_params (a : Agent) (d : Draws) (s : State) : (latch a d s).params = s.params := rfl
@[simp] theorem latch_schedule (a : Agent) (d : Draws) (s : State) : (latch a d s).schedule = s.schedule := rfl
@[simp] theorem latch_moves (a : Agent) (d : Draws) (s : State) : (latch a d s).moves = s.moves := rfl
@[simp] theorem latch_port (a : Agent) (d : Draws) (s : State) : (latch a d s).port = a := rfl
@[simp] theorem latch_draws (a : Agent) (d : Draws) (s : State) : (latch a d s).draws = d := rfl
@[simp] theorem latch_response (a : Agent) (d : Draws) (s : State) : (latch a d s).response = s.response := rfl

@[simp] theorem advance_block (s : State) : (advance s).block = s.block := rfl
@[simp] theorem advance_taskA (s : State) : (advance s).taskA = s.taskA := rfl
@[simp] theorem advance_taskB (s : State) : (advance s).taskB = s.taskB := rfl
@[simp] theorem advance_params (s : State) : (advance s).params = s.params := rfl
@[simp] theorem advance_schedule (s : State) : (advance s).schedule = s.schedule.tail := rfl
@[simp] theorem advance_moves (s : State) : (advance s).moves = s.moves + 1 := rfl
@[simp] theorem advance_port (s : State) : (advance s).port = s.port := rfl
@[simp] theorem advance_draws (s : State) : (advance s).draws = s.draws := rfl
@[simp] theorem advance_response (s : State) : (advance s).response = s.response := rfl

theorem tick_block (k : Nat) (s : State) :
    (tick k s).block = { s.block with tbUs := s.block.tbUs + BitVec.ofNat 64 k } := rfl
@[simp] theorem tick_encoder (k : Nat) (s : State) (e : Fin Config.nEnc) :
    (tick k s).block.encoder e = s.block.encoder e := rfl
@[simp] theorem tick_button (k : Nat) (s : State) (i : Fin Config.nBtn) :
    (tick k s).block.button i = s.block.button i := rfl
@[simp] theorem tick_tbUs (k : Nat) (s : State) : (tick k s).block.tbUs = s.block.tbUs + BitVec.ofNat 64 k := rfl
@[simp] theorem tick_frame (k : Nat) (s : State) : (tick k s).block.frame = s.block.frame := rfl
@[simp] theorem tick_txbuf (k : Nat) (s : State) : (tick k s).block.txbuf = s.block.txbuf := rfl
@[simp] theorem tick_faultCode (k : Nat) (s : State) : (tick k s).block.faultCode = s.block.faultCode := rfl
@[simp] theorem tick_faultWord (k : Nat) (s : State) : (tick k s).block.faultWord = s.block.faultWord := rfl
@[simp] theorem tick_taskA (k : Nat) (s : State) : (tick k s).taskA = s.taskA := rfl
@[simp] theorem tick_taskB (k : Nat) (s : State) : (tick k s).taskB = s.taskB := rfl
@[simp] theorem tick_params (k : Nat) (s : State) : (tick k s).params = s.params := rfl
@[simp] theorem tick_schedule (k : Nat) (s : State) : (tick k s).schedule = s.schedule := rfl
@[simp] theorem tick_moves (k : Nat) (s : State) : (tick k s).moves = s.moves := rfl
@[simp] theorem tick_port (k : Nat) (s : State) : (tick k s).port = s.port := rfl
@[simp] theorem tick_draws (k : Nat) (s : State) : (tick k s).draws = s.draws := rfl
@[simp] theorem tick_response (k : Nat) (s : State) : (tick k s).response = s.response := rfl

@[simp] theorem resetAll_block (s : State) : (resetAll s).block = Block.reset s.params := rfl
@[simp] theorem resetAll_taskA (s : State) : (resetAll s).taskA = Task.reset := rfl
@[simp] theorem resetAll_taskB (s : State) : (resetAll s).taskB = Task.reset := rfl
@[simp] theorem resetAll_params (s : State) : (resetAll s).params = s.params := rfl
@[simp] theorem resetAll_schedule (s : State) : (resetAll s).schedule = s.schedule := rfl
@[simp] theorem resetAll_moves (s : State) : (resetAll s).moves = s.moves := rfl
@[simp] theorem resetAll_port (s : State) : (resetAll s).port = s.port := rfl
@[simp] theorem resetAll_draws (s : State) : (resetAll s).draws = s.draws := rfl
@[simp] theorem resetAll_response (s : State) : (resetAll s).response = none := rfl

theorem nextEvent_of_cons {s : State} {ev : Event} {rest : List Event} (h : s.schedule = ev :: rest) :
    nextEvent s = ev := by simp [nextEvent, h]

end Sys2Proof.Machine
end

