-- ==== Sys2Proof/Laws/Ops.lean ====
section
/-! SUPPORT. What each shared operation can do, said once: citing these, no proof unfolds the operation again. -/

namespace Sys2Proof.Machine

theorem running_iff (b : Block) : b.running = true ↔ b.faultCode = 0#8 := by simp [Block.running]

theorem act_of_running {s : State} (h : s.block.faultCode = 0#8) (r : Result) : act s r = r := by
  simp [act, running_iff, h]

theorem act_of_halted {s : State} (h : s.block.faultCode ≠ 0#8) (r : Result) : act s r = .fault .halted :=
  if_neg fun hr => h ((running_iff _).1 hr)

/-- An action that answers a next state runs on a block that is not faulted. -/
theorem act_next {s t : State} {r : Result} (h : act s r = .next t) : s.block.faultCode = 0#8 ∧ r = .next t := by
  unfold act at h
  split at h
  · next hr => exact ⟨(running_iff _).1 hr, h⟩
  · cases h

theorem complete_next {s t : State} {b : Block} {r : Option Response} (h : complete s b r = .next t) :
    t = { s with block := b, response := r.map fun v => ⟨s.port, v⟩ } := by
  simpa [complete] using h.symm

theorem faults_next {s t : State} {c : FaultCode} {w : Word} (h : faults s c w = .next t) : t = raise c w s := by
  simpa [faults] using h.symm

theorem actOnEncoder_of_lt {s : State} (h : s.block.faultCode = 0#8) {e : Nat} (he : e < Config.nEnc) (w : Word)
    (k : Fin Config.nEnc → Result) : actOnEncoder s e w k = k ⟨e, he⟩ := by
  simp [actOnEncoder, act_of_running h, he]

theorem actOnEncoder_of_ge {s : State} (h : s.block.faultCode = 0#8) {e : Nat} (he : ¬ e < Config.nEnc) (w : Word)
    (k : Fin Config.nEnc → Result) : actOnEncoder s e w k = faults s .badIndex w := by
  simp only [actOnEncoder, act_of_running h, dif_neg he]

theorem actOnEncoder_of_halted {s : State} (h : s.block.faultCode ≠ 0#8) (e : Nat) (w : Word)
    (k : Fin Config.nEnc → Result) : actOnEncoder s e w k = .fault .halted := act_of_halted h _

/-- An encoder action that answers a next state has faulted `BAD_INDEX` or acted on an encoder. -/
theorem actOnEncoder_next {s t : State} {e : Nat} {w : Word} {k : Fin Config.nEnc → Result}
    (h : actOnEncoder s e w k = .next t) :
    s.block.faultCode = 0#8 ∧ (t = raise .badIndex w s ∨ ∃ he : e < Config.nEnc, k ⟨e, he⟩ = .next t) := by
  obtain ⟨hr, h⟩ := act_next h
  refine ⟨hr, ?_⟩
  split at h
  · next he => exact .inr ⟨he, h⟩
  · exact .inl (faults_next h)

/-- Everything an action can do: on a running block it faults, recording its own word, or completes. -/
theorem exec_next {i : Instr} {s t : State} (h : exec i s = .next t) :
    s.block.faultCode = 0#8 ∧
      ((∃ c, t = raise c (encode i) s) ∨
        ∃ (b : Block) (r : Option Response), t = { s with block := b, response := r.map fun v => ⟨s.port, v⟩ }) := by
  cases i with
  | encReset e =>
    unfold exec execEncReset at h
    obtain ⟨hr, h | ⟨he, h⟩⟩ := actOnEncoder_next h
    · exact ⟨hr, .inl ⟨_, h⟩⟩
    · exact ⟨hr, .inr ⟨_, _, complete_next h⟩⟩
  | encPos e =>
    unfold exec execEncPos at h
    obtain ⟨hr, h | ⟨he, h⟩⟩ := actOnEncoder_next h
    · exact ⟨hr, .inl ⟨_, h⟩⟩
    · exact ⟨hr, .inr ⟨_, _, complete_next h⟩⟩
  | encVel e p =>
    unfold exec execEncVel at h
    obtain ⟨hr, h | ⟨he, h⟩⟩ := actOnEncoder_next h
    · exact ⟨hr, .inl ⟨_, h⟩⟩
    · dsimp only at h
      split at h
      · exact ⟨hr, .inl ⟨_, faults_next h⟩⟩
      · exact ⟨hr, .inr ⟨_, _, complete_next h⟩⟩
  | btnEdge pin => obtain ⟨hr, h⟩ := act_next h; exact ⟨hr, .inr ⟨_, _, complete_next h⟩⟩
  | inSnap => obtain ⟨hr, h⟩ := act_next h; exact ⟨hr, .inr ⟨_, _, complete_next h⟩⟩
  | inClr => obtain ⟨hr, h⟩ := act_next h; exact ⟨hr, .inr ⟨_, _, complete_next h⟩⟩
  | pack r =>
    obtain ⟨hr, h⟩ := act_next h
    split at h
    · exact ⟨hr, .inr ⟨_, _, complete_next h⟩⟩
    · exact ⟨hr, .inl ⟨_, faults_next h⟩⟩
  | pub => obtain ⟨hr, h⟩ := act_next h; exact ⟨hr, .inr ⟨_, _, complete_next h⟩⟩
  | qin e a b =>
    unfold exec execQin at h
    obtain ⟨hr, h | ⟨he, h⟩⟩ := actOnEncoder_next h
    · exact ⟨hr, .inl ⟨_, h⟩⟩
    · exact ⟨hr, .inr ⟨_, _, complete_next h⟩⟩
  | i2cRd n => obtain ⟨hr, h⟩ := act_next h; exact ⟨hr, .inr ⟨_, _, complete_next h⟩⟩

/-- Everything a presented word can do. -/
theorem present_next {a : Agent} {w : Word} {record : PackRecord} {d : Draws} {s t : State}
    (h : present a w record d s = .next t) :
    (∃ i, decode w record = .ok i ∧ exec i (latch a d s) = .next t) ∨
      (s.block.faultCode = 0#8 ∧ t = raise .illegalAction w (latch a d s)) := by
  unfold present at h
  split at h
  · next i hi => exact .inl ⟨i, hi, h⟩
  · obtain ⟨hr, h⟩ := act_next h
    exact .inr ⟨hr, faults_next h⟩

end Sys2Proof.Machine
end

