-- ==== Sys2Proof/Laws/PerInstr.lean ====
section
/-! SUPPORT. Facts about every action as syntax: the word of a well-formed action is in its operation's row. -/

namespace Sys2Proof.Laws.EncodesToRow

/-- The row of an action's operation (30_encoding.md R75). -/
def rowOf : Instr → Row
  | .encReset _ => ⟨.encReset, 0x10000000#32, 0xF0FFFFFF#32⟩
  | .encPos _ => ⟨.encPos, 0x20000000#32, 0xF0FFFFFF#32⟩
  | .encVel _ _ => ⟨.encVel, 0x30000000#32, 0xF0FF0000#32⟩
  | .btnEdge _ => ⟨.btnEdge, 0x40000000#32, 0xFF00FFFF#32⟩
  | .inSnap => ⟨.inSnap, 0x50000000#32, 0xFFFFFFFF#32⟩
  | .inClr => ⟨.inClr, 0x60000000#32, 0xFFFFFFFF#32⟩
  | .pack _ => ⟨.pack, 0x70000000#32, 0xFFFFFFFF#32⟩
  | .pub => ⟨.pub, 0x80000000#32, 0xFFFFFFFF#32⟩
  | .qin _ _ _ => ⟨.qin, 0x90000000#32, 0xF0FFFFFC#32⟩
  | .i2cRd _ => ⟨.i2cRd, 0xA0000000#32, 0xFFFF0000#32⟩

/-- The word of a well-formed action matches its row of the opcode map (30_encoding.md R75, R76). -/
def Statement (i : Instr) : Prop :=
  i.wellFormed = true → rowOf i ∈ opcodeRows ∧ (rowOf i).holds (encode i) = true

theorem or_and (a b m : Word) : (a ||| b) &&& m = (a &&& m) ||| (b &&& m) := by
  apply BitVec.eq_of_getLsbD_eq
  intro k _
  simp [Bool.and_or_distrib_right]

theorem placeImm_mask {v : Nat} (h : v < 2 ^ 16) : placeImm v &&& 0xFFFF0000#32 = 0#32 := by
  apply BitVec.eq_of_toNat_eq
  have hv : v &&& 0xFFFF = v := by
    rw [show (0xFFFF : Nat) = 2 ^ 16 - 1 from rfl, Nat.and_two_pow_sub_one_eq_mod, Nat.mod_eq_of_lt h]
  rw [BitVec.toNat_and, placeImm, BitVec.toNat_ofNat, Nat.mod_eq_of_lt (by omega), ← hv, Nat.and_assoc]
  simp

theorem encReset (e : Nat) : Statement (.encReset e) := fun h => by
  have all : ∀ e : Fin 16, (rowOf (.encReset e.val)).holds (encode (.encReset e.val)) = true := by decide
  exact ⟨by simp [rowOf, opcodeRows], all ⟨e, of_decide_eq_true h⟩⟩

theorem encPos (e : Nat) : Statement (.encPos e) := fun h => by
  have all : ∀ e : Fin 16, (rowOf (.encPos e.val)).holds (encode (.encPos e.val)) = true := by decide
  exact ⟨by simp [rowOf, opcodeRows], all ⟨e, of_decide_eq_true h⟩⟩

theorem encVel (e p : Nat) : Statement (.encVel e p) := fun h => by
  simp only [Instr.wellFormed, Bool.and_eq_true, decide_eq_true_eq] at h
  have hp : placeImm p &&& 0xF0FF0000#32 = 0#32 := by
    rw [show (0xF0FF0000#32 : Word) = 0xFFFF0000#32 &&& 0xF0FF0000#32 from by decide, ← BitVec.and_assoc,
      placeImm_mask h.2, BitVec.zero_and]
  have all : ∀ e : Fin 16, (0x30000000#32 ||| placeIdx e.val) &&& 0xF0FF0000#32 = 0x30000000#32 := by decide
  refine ⟨by simp [rowOf, opcodeRows], ?_⟩
  simp only [Row.holds, rowOf, encode, or_and _ (placeImm p), hp, all ⟨e, h.1⟩, BitVec.or_zero, beq_self_eq_true]

theorem btnEdge (pin : Nat) : Statement (.btnEdge pin) := fun h => by
  have all : ∀ q : Fin 256, (rowOf (.btnEdge q.val)).holds (encode (.btnEdge q.val)) = true := by decide +kernel
  exact ⟨by simp [rowOf, opcodeRows], all ⟨pin, of_decide_eq_true h⟩⟩

theorem inSnap : Statement .inSnap := fun _ => by decide

theorem inClr : Statement .inClr := fun _ => by decide

theorem pack (r : PackRecord) : Statement (.pack r) := fun _ => ⟨by simp [rowOf, opcodeRows], by simp only [Row.holds, rowOf, encode]; decide⟩

theorem pub : Statement .pub := fun _ => by decide

theorem qin (e : Nat) (a b : Bool) : Statement (.qin e a b) := fun h => by
  have all : ∀ (e : Fin 16) (a b : Bool), (rowOf (.qin e.val a b)).holds (encode (.qin e.val a b)) = true := by decide
  exact ⟨by simp [rowOf, opcodeRows], all ⟨e, of_decide_eq_true h⟩ a b⟩

theorem i2cRd (n : Nat) : Statement (.i2cRd n) := fun h => by
  refine ⟨by simp [rowOf, opcodeRows], ?_⟩
  simp only [Row.holds, rowOf, encode, or_and, placeImm_mask (of_decide_eq_true h)]
  decide

end Sys2Proof.Laws.EncodesToRow
end

