-- ==== Sys2Proof/Tests/Slice0.lean ====
section
/-! SUPPORT. Small tests of the model against 95_test_vectors.md and the bit patterns of 30_encoding.md R75, the smoke tests of
`Instr.wellFormed`, and for each statement with hypotheses a witness that meets them. -/

namespace Sys2Proof.Tests

open Sys2Proof.Machine Sys2Proof.Safety

set_option Elab.async false

/-! ### Well-formedness: an ill-formed term for each check -/

theorem test_wellFormed_encReset : (Instr.encReset 16).wellFormed = false := by decide +kernel
theorem test_wellFormed_encPos : (Instr.encPos 16).wellFormed = false := by decide +kernel
theorem test_wellFormed_encVel_index : (Instr.encVel 16 10).wellFormed = false := by decide +kernel
theorem test_wellFormed_encVel_period : (Instr.encVel 0 65536).wellFormed = false := by decide +kernel
theorem test_wellFormed_btnEdge : (Instr.btnEdge 256).wellFormed = false := by decide +kernel
theorem test_wellFormed_qin : (Instr.qin 16 true true).wellFormed = false := by decide +kernel
theorem test_wellFormed_i2cRd : (Instr.i2cRd 65536).wellFormed = false := by decide +kernel

/-! ### Decoding: words written out bit by bit from the patterns of 30_encoding.md R75 -/

theorem test_decode_encReset :
    decode 0b0001_0001_00000000_0000000000000000#32 PackRecord.zero = .ok (.encReset 1) := by decide +kernel
theorem test_decode_encPos :
    decode 0b0010_1111_00000000_0000000000000000#32 PackRecord.zero = .ok (.encPos 15) := by decide +kernel
theorem test_decode_encVel :
    decode 0b0011_0001_00000000_1000000011001000#32 PackRecord.zero = .ok (.encVel 1 32968) := by decide +kernel
theorem test_decode_btnEdge :
    decode 0b0100_0000_10001101_0000000000000000#32 PackRecord.zero = .ok (.btnEdge 141) := by decide +kernel
theorem test_decode_inSnap :
    decode 0b0101_0000_00000000_0000000000000000#32 PackRecord.zero = .ok .inSnap := by decide +kernel
theorem test_decode_inClr :
    decode 0b0110_0000_00000000_0000000000000000#32 PackRecord.zero = .ok .inClr := by decide +kernel
theorem test_decode_pack :
    decode 0b0111_0000_00000000_0000000000000000#32 PackRecord.zero = .ok (.pack PackRecord.zero) := by decide +kernel
theorem test_decode_pub :
    decode 0b1000_0000_00000000_0000000000000000#32 PackRecord.zero = .ok .pub := by decide +kernel
theorem test_decode_qin :
    decode 0b1001_0001_00000000_0000000000000010#32 PackRecord.zero = .ok (.qin 1 true false) := by decide +kernel
theorem test_decode_i2cRd :
    decode 0b1010_0000_00000000_1000000000011001#32 PackRecord.zero = .ok (.i2cRd 32793) := by decide +kernel

/-- The illegal words of 95_test_vectors.md 2.1 with a reserved operation code. -/
theorem test_decode_reserved :
    [0x00000000#32, 0xB0000000#32, 0xFFFFFFFF#32].all
      (fun w => decode w PackRecord.zero = .error .reservedOp) = true := by decide +kernel

/-- The illegal words of 95_test_vectors.md 2.1 with a must-be-zero field that is not zero. -/
theorem test_decode_mustBeZero :
    [0x10000001#32, 0x10010000#32, 0x400D0001#32, 0x410D0000#32, 0x50000001#32, 0x90000004#32, 0xA1000019#32].all
      (fun w => decode w PackRecord.zero = .error .mustBeZero) = true := by decide +kernel

theorem test_decodeTableWord : decodeTableWord 32 0x300000C8 = some (.encVel 0 200) := by decide +kernel

/-! ### The test state -/

/-- `PIN_MAP` = 13 to 0, 14 to 2, 20 to 1, and `QSTATE_INIT` = 00, 00, as 95_test_vectors.md has them. -/
def testParams : Params :=
  { limitPolicy := .wrap, pinOf := #v[some 13, some 20, some 14, none, none, none], qstateInit := #v[0, 0],
    i2cAddr := 0x42, pNominal := 200 }

/-- Every draw succeeds. -/
def allOk : Draws := { cntOk := true, volOk := true, vol := 4095, sldOk := true, sld := 100, pubOk := true }

/-- Every draw fails. -/
def allFail : Draws := { cntOk := false, volOk := false, vol := 7, sldOk := false, sld := 8, pubOk := false }

/-- A state with a given block and draws. -/
def stateOf (b : Block) (d : Draws) : State :=
  { block := b, taskA := Task.reset, taskB := Task.reset, params := testParams, schedule := [], moves := 0,
    port := .taskB, draws := d, response := none }

/-- The state after reset, with `QSTATE_INIT` = 00, 00. -/
def start : State := stateOf (Block.reset testParams) allOk

/-- `start` with one encoder's state given. -/
def withEncoder (e : Fin 2) (c : Encoder) (d : Draws) : State :=
  stateOf ((Block.reset testParams).setEncoder e c) d

/-- `start` with one button's state and the time base given. -/
def withButton (k : Fin 6) (v : Button) (now : Micros) : State :=
  stateOf { (Block.reset testParams).setButton k v with tbUs := now } allOk

/-- `start` after a fault. -/
def halted : State := faulted start 1 0

/-- What holds of a next state; none where the step stops. -/
def after {α : Type} (r : Result) (f : State → α) : Option α :=
  match r with
  | .next t => some (f t)
  | .fault _ => none
  | .refused _ => none

/-- The response in a next state. -/
def answerOf (r : Result) : Option (Option Response) := after r State.answer

/-- The fault registers in a next state. -/
def faultOf (r : Result) : Option (BitVec 8 × Word) := after r fun t => (t.block.faultCode, t.block.faultWord)

/-- The record of V-L1-4. -/
def record : PackRecord :=
  { pos0 := -5, vel0 := mkRat 1234 100, pos1 := 1000, vel1 := -7, ts := 123456, flags := 0x05, vol := 2048, sld := 0 }

/-- The bytes of V-L1-4. -/
def recordBytes : List Byte :=
  [0xFB, 0xFF, 0xFF, 0xFF, 0xD2, 0x04, 0x00, 0x00, 0xE8, 0x03, 0x00, 0x00, 0x44, 0xFD, 0xFF, 0xFF,
   0x40, 0xE2, 0x01, 0x00, 0x05, 0x00, 0x08, 0x00, 0x00]

/-- `start` with the bytes of V-L1-4 in one buffer. -/
def withFrame (d : Draws) : State :=
  stateOf { Block.reset testParams with frame := Memory.ofBytes recordBytes } d

/-- `start` with the bytes of V-L1-4 in the bus buffer. -/
def withTxbuf : State := stateOf { Block.reset testParams with txbuf := Memory.ofBytes recordBytes } allOk

/-! ### One step of each action, from 95_test_vectors.md -/

/-- V-RS-1. -/
theorem test_encReset :
    after (exec (.encReset 1) (withEncoder 1 { raw := 37, qstate := 0, offset := 0, last := 12 } allOk))
      (fun t => t.block.encoder 1) = some { raw := 37, qstate := 0, offset := -37, last := 0 } := by decide +kernel

/-- V-RS-2. -/
theorem test_encReset_fails :
    after (exec (.encReset 1) (withEncoder 1 { raw := 37, qstate := 0, offset := 0, last := 12 } allFail))
      (fun t => t.block.encoder 1) = some { raw := 37, qstate := 0, offset := 0, last := 12 } := by decide +kernel

/-- V-POS-3. -/
theorem test_encPos :
    answerOf (exec (.encPos 1) (withEncoder 1 { raw := -10000, qstate := 0, offset := -10000, last := 0 } allOk))
      = some (some (.position (-20000))) := by decide +kernel

/-- V-POS-2. -/
theorem test_encPos_fails :
    answerOf (exec (.encPos 0) (withEncoder 0 { raw := 5, qstate := 0, offset := -2, last := 0 } allFail))
      = some (some (.position (-2))) := by decide +kernel

/-- V-VEL-5. -/
theorem test_encVel :
    after (exec (.encVel 0 3) (withEncoder 0 { raw := -1, qstate := 0, offset := 0, last := 0 } allOk))
      (fun t => (t.answer, (t.block.encoder 0).last)) = some (some (.velocity (mkRat (-1000) 3)), -1) := by
  decide +kernel

/-- V-VEL-7. -/
theorem test_encVel_fails :
    after (exec (.encVel 0 10) (withEncoder 0 { raw := 9, qstate := 0, offset := -5, last := 4 } allFail))
      (fun t => (t.answer, (t.block.encoder 0).last)) = some (some (.velocity (-900)), -5) := by decide +kernel

/-- V-IN-5. -/
theorem test_btnEdge :
    after (exec (.btnEdge 20) (withButton 1 { pressed := false, lastPressUs := -10000 } 40001))
      (fun t => t.block.button 1) = some { pressed := true, lastPressUs := 40001 } := by decide +kernel

/-- V-IN-5b. -/
theorem test_btnEdge_discarded :
    after (exec (.btnEdge 20) (withButton 1 { pressed := false, lastPressUs := -10000 } 40000))
      (fun t => t.block.button 1) = some { pressed := false, lastPressUs := -10000 } := by decide +kernel

/-- V-IN-8, with button 2 pressed. -/
theorem test_inSnap :
    answerOf (exec .inSnap (withButton 2 { pressed := true, lastPressUs := 0 } 0))
      = some (some (.snapshot 0x04 4095 100)) := by decide +kernel

/-- V-IN-7, with no button pressed. -/
theorem test_inSnap_fails :
    answerOf (exec .inSnap (stateOf (Block.reset testParams) allFail)) = some (some (.snapshot 0 0 0)) := by decide +kernel

/-- V-IN-9. -/
theorem test_inClr :
    after (exec .inClr (withButton 0 { pressed := true, lastPressUs := 60000 } 70000)) (fun t => t.block.button 0)
      = some { pressed := false, lastPressUs := 60000 } := by decide +kernel

/-- V-L1-4. -/
theorem test_pack : after (exec (.pack record) start) (fun t => t.block.frame.bytes) = some recordBytes := by
  decide +kernel

/-- V-PK-10. -/
theorem test_pack_faults :
    after (exec (.pack { record with vel0 := 1, vel1 := 30000000 }) start) (fun t => (t.block.frame, t.block.faultCode))
      = some ([], 4) := by decide +kernel

/-- V-PUB-1. -/
theorem test_pub :
    after (exec .pub (withFrame allOk)) (fun t => (t.block.txbuf.bytes, t.answer))
      = some (recordBytes, some (.status .ok)) := by decide +kernel

/-- V-PUB-2. -/
theorem test_pub_fails :
    after (exec .pub (withFrame allFail)) (fun t => (t.block.txbuf, t.answer))
      = some ([], some (.status .fail)) := by decide +kernel

/-- V-Q-8: 01 to 11. -/
theorem test_qin :
    after (exec (.qin 0 true true) (withEncoder 0 { raw := 100, qstate := 0b01, offset := 0, last := 0 } allOk))
      (fun t => t.block.encoder 0) = some { raw := 99, qstate := 0b11, offset := 0, last := 0 } := by decide +kernel

/-- V-LIM-5 under `WRAP`: 00 to 01 from the lower limit. -/
theorem test_qin_wraps :
    after (exec (.qin 0 false true) (withEncoder 0 { raw := -10000, qstate := 0b00, offset := 0, last := 0 } allOk))
      (fun t => (t.block.encoder 0).raw) = some 10000 := by decide +kernel

/-- V-RD-2. -/
theorem test_i2cRd :
    answerOf (exec (.i2cRd 4) withTxbuf) = some (some (.bytes [0xFB, 0xFF, 0xFF, 0xFF])) := by decide +kernel

/-- V-RD-3. -/
theorem test_i2cRd_nothing : answerOf (exec (.i2cRd 0) withTxbuf) = some (some (.bytes [])) := by decide +kernel

/-! ### Faults, limits and conversions -/

/-- V-F-1: the all-zero word faults. -/
theorem test_zero_word_faults : faultOf (step (start.withFetchWord 32 0)) = some (1, 0) := by decide +kernel

/-- V-VEL-6. -/
theorem test_zero_period : faultOf (step (start.withFetchWord 32 0x30000000)) = some (3, 0x30000000) := by decide +kernel

/-- The index is checked before the period (95_test_vectors.md 2.1, 0x32000000). -/
theorem test_index_first : faultOf (step (start.withFetchWord 32 0x32000000)) = some (2, 0x32000000) := by decide +kernel

/-- A placed word runs as the first action after reset. -/
theorem test_word_runs_from_reset :
    after (step (State.reset.withFetchWord 32 0x10000000)) (fun t => t.block.faultCode) = some 0 := by decide +kernel

/-- V-F-2: a faulted block answers no master read. -/
theorem test_halted : step (halted.withFetchWord 32 0xA0000019) = .fault .halted := rfl

/-- V-F-3. -/
theorem test_tick_on_fault :
    after (step { halted with schedule := [.tick 4] }) (fun t => (t.block.tbUs, t.block.faultCode)) = some (5, 1) := by
  decide +kernel

/-- V-F-4. -/
theorem test_reset_clears :
    after (step { halted with schedule := [.reset] }) (fun t => t.block) = some (Block.reset testParams) := by decide +kernel

/-- V-LIM-2 and V-LIM-4 under each policy. -/
theorem test_limits :
    limit .zero 10000 = 0 ∧ limit .saturate 10000 = 10000 ∧ limit .wrap 10000 = 10000 ∧
    limit .zero (-10000) = 0 ∧ limit .saturate (-10000) = -10000 ∧ limit .wrap (-10000) = -10000 := by decide +kernel

/-- V-PK-6 and V-PK-5. -/
theorem test_toFix :
    toFix (mkRat (-12349) 1000) = some (-1234) ∧ toFix (mkRat (-9) 1000) = some 0 ∧ toFix (mkRat (-1) 100) = some (-1) ∧
    toFix (mkRat (-21474836485) 1000) = some 0x80000000 := by decide +kernel

/-- V-L1-4, the master's side. -/
theorem test_unpack :
    unpack recordBytes = { pos0 := -5, q0 := 1234, pos1 := 1000, q1 := -700, ts := 123456, flags := 0x05, vol := 2048,
                           sld := 0 } := by decide +kernel

/-- Program P2, step 15: after a publish that answered OK Task B presents `IN.CLR`. -/
theorem test_cycleB_clears :
    after (step { start with taskB := { Task.reset with stage := .pub }, schedule := [.taskB 10 61 allOk] })
      (fun t => t.taskB.action) = some .inClr := by decide +kernel

/-- Program P3, step 9: after a publish that failed the next cycle begins. -/
theorem test_cycleB_retries :
    after (step { start with taskB := { Task.reset with stage := .pub }, schedule := [.taskB 10 61 allFail] })
      (fun t => t.taskB.action) = some (.encPos 0) := by decide +kernel

/-! ### Witnesses: for each statement with hypotheses, a state and operands that meet them -/

/-- A presented word heads the schedule. -/
def presents (w : Word) : State := { start with schedule := [.present .master w record allOk] }

/-- An environment's step heads the schedule. -/
def scheduled (s : State) (ev : Event) : State := { s with schedule := [ev] }

theorem witness_DecodeOfEncodeIsTheAction :
    (Instr.encReset 15).wellFormed = true ∧ (Instr.encVel 15 65535).wellFormed = true ∧
    (Instr.btnEdge 255).wellFormed = true ∧ (Instr.i2cRd 65535).wellFormed = true ∧
    (Instr.pack record).wellFormed = true := by decide +kernel

theorem witness_EncodeOfDecodeIsTheWord :
    (∃ i, decode 0x3F00FFFF#32 record = .ok i) ∧ (∃ r', decode 0x70000000#32 record = .ok (.pack r')) :=
  ⟨⟨_, rfl⟩, ⟨_, rfl⟩⟩

theorem witness_DecodingFollowsTheOneMatchingRow :
    (∃ row ∈ opcodeRows, row.holds 0x40FF0000#32 = true) ∧ (∀ row ∈ opcodeRows, row.holds 0x10000001#32 = false) ∧
    Ready start := ⟨by decide +kernel, by decide +kernel, rfl⟩

theorem witness_IllegalWordsAreTheReservedAndTheNonZero :
    Ready start ∧ decode 0#32 record = .error .reservedOp := ⟨rfl, by decide +kernel⟩

theorem witness_StepRunsTheDecodedAction :
    (presents 0xA0000019#32).schedule = .present .master 0xA0000019#32 record allOk :: [] ∧
    decode 0xA0000019#32 record = .ok (.i2cRd 25) ∧
    Ready (presents 0xA1000019#32) ∧ (presents 0xA1000019#32).schedule = .present .master 0xA1000019#32 record allOk :: [] ∧
    decode 0xA1000019#32 record = .error .mustBeZero ∧ (∃ t, step (presents 0xA0000019#32) = .next t) :=
  ⟨rfl, by decide +kernel, rfl, rfl, by decide +kernel, _, rfl⟩

theorem witness_TickAloneAdvancesTheTimeBase :
    nextEvent (scheduled start (.tick 0)) = .tick 0 ∧
    (∃ t, step (presents 0x80000000#32) = .next t) ∧ (∀ more, nextEvent (presents 0x80000000#32) ≠ .tick more) ∧
    nextEvent (presents 0x80000000#32) ≠ .reset :=
  ⟨rfl, ⟨_, rfl⟩, (by intro more h; cases h), (by intro h; cases h)⟩

theorem witness_ResetSetsEveryElement :
    nextEvent (scheduled halted .reset) = .reset ∧
    ∃ t, step (scheduled halted .reset) = .next t ∧ (scheduled halted .reset).block.faultCode ≠ 0 ∧
      t.block.faultCode = 0 := ⟨rfl, _, rfl, by decide +kernel, rfl⟩

theorem witness_MasterWriteChangesNothing :
    nextEvent (scheduled halted (.masterWrite [1, 2])) = .masterWrite [1, 2] := rfl

theorem witness_FaultedBlockExecutesNoAction :
    (∀ ev : Event, (scheduled halted ev).block.faultCode ≠ 0 ∧ nextEvent (scheduled halted ev) = ev) ∧
    (∃ t, step (scheduled halted (.tick 0)) = .next t) ∧ nextEvent (scheduled halted (.tick 0)) ≠ .reset :=
  ⟨fun _ => ⟨(by decide +kernel : halted.block.faultCode ≠ 0), rfl⟩, ⟨_, rfl⟩, by intro h; cases h⟩

theorem witness_EncoderActionsCheckTheirIndex : halted.block.faultCode ≠ 0 ∧ Ready start ∧ 2 ≤ 2 :=
  ⟨by decide +kernel, rfl, by decide +kernel⟩

theorem witness_FaultPriority :
    Ready start ∧ toFix 30000000 = none ∧ toFix (mkRat (-2147483649) 100) = none ∧
    decode 0x92000004#32 record = .error .mustBeZero := ⟨rfl, by decide +kernel, by decide +kernel, by decide +kernel⟩

theorem witness_FaultsArePrecise :
    (∃ t, exec (.encPos 2) start = .next t ∧ t.block.faultCode = 2) ∧
    (∃ t, exec (.encVel 1 0) start = .next t ∧ t.block.faultCode = 3) ∧
    (∃ t, present .edge 0#32 record allOk start = .next t ∧ t.block.faultCode = 1) :=
  ⟨⟨_, rfl, rfl⟩, ⟨_, rfl, rfl⟩, ⟨_, rfl, rfl⟩⟩

/-- Each encoder, and an index that names none: for `QIN`, `ENC.RESET`, `ENC.POS` and `ENC.VEL`. -/
theorem witness_QinCountsOneStep : Ready start ∧ 0 < 2 ∧ 1 < 2 ∧ 2 ≤ 2 := ⟨rfl, by decide +kernel, by decide +kernel, by decide +kernel⟩

theorem witness_LimitPolicies :
    ((-10000 : Int) ≤ 10000 ∧ (10001 : Int) = 10000 + 1) ∧ ((-10001 : Int) = -10000 - 1) := by decide +kernel

theorem witness_EncResetZeroesThePosition :
    Ready (withEncoder 1 { raw := 10000, qstate := 0, offset := 0, last := 0 } allOk) ∧
    ((withEncoder 1 { raw := 10000, qstate := 0, offset := 0, last := 0 } allOk).block.encoder 1).raw.toInt = 10000 ∧
    2 ≤ 2 := ⟨rfl, by decide +kernel, by decide +kernel⟩

theorem witness_EncPosRespondsThePosition : Ready start ∧ 1 < 2 ∧ 2 ≤ 2 := ⟨rfl, by decide +kernel, by decide +kernel⟩

/-- A state at the edge of the invariant: count, offset and baseline each at a limit. -/
def edgeState : State := withEncoder 0 { raw := 10000, qstate := 0b11, offset := 10000, last := -20000 } allOk

theorem edgeState_inv : Inv edgeState := by
  refine ⟨⟨?_, rfl, rfl, .inl rfl, .inl rfl, by decide +kernel, fun _ => rfl⟩, .inl rfl⟩
  intro e
  match e with
  | 0 => exact ⟨by decide +kernel, by decide +kernel, (fun h => nomatch h), by decide +kernel, by decide +kernel, by decide +kernel, by decide +kernel⟩
  | 1 => exact ⟨by decide +kernel, by decide +kernel, (fun h => nomatch h), by decide +kernel, by decide +kernel, by decide +kernel, by decide +kernel⟩

theorem witness_EncVelRespondsTheVelocity : Inv edgeState ∧ Ready edgeState ∧ 0 < 2 ∧ 1 ≠ 0 :=
  ⟨edgeState_inv, rfl, by decide +kernel, by decide +kernel⟩

theorem witness_PositionNeverWraps : Inv edgeState ∧ Ready edgeState ∧ edgeState.draws.cntOk = true ∧ 0 < 2 :=
  ⟨edgeState_inv, rfl, rfl, by decide +kernel⟩

theorem witness_PositionIsZeroAfterReset : Ready edgeState ∧ edgeState.draws.cntOk = true ∧ 1 < 2 :=
  ⟨rfl, rfl, by decide +kernel⟩

theorem witness_VelocityMeasuresFromTheLatestRead :
    ∃ t, exec (.encVel 0 20) edgeState = .next t ∧ Ready edgeState ∧ edgeState.draws.cntOk = true ∧
      ∃ u, exec (.qin 0 false true) t = .next u ∧ Ready u ∧ u.draws.cntOk = true ∧
        (u.block.encoder 0).last = (t.block.encoder 0).last :=
  ⟨_, rfl, rfl, rfl, _, rfl, rfl, rfl, by decide +kernel⟩

theorem witness_BtnEdgeDebounces :
    Ready start ∧ pinMap start.params 99 = none ∧ pinMap start.params 13 = some 0 ∧
    (let s := withButton 0 { pressed := false, lastPressUs := 0 } 50001;
      pinMap s.params 13 = some 0 ∧ 50000 < (s.block.tbUs.toNat + 2 ^ 64 - (s.block.button 0).lastPressUs.toNat) % 2 ^ 64) ∧
    (let s := withButton 0 { pressed := false, lastPressUs := 0 } 50000;
      pinMap s.params 13 = some 0 ∧
        (s.block.tbUs.toNat + 2 ^ 64 - (s.block.button 0).lastPressUs.toNat) % 2 ^ 64 ≤ 50000) :=
  ⟨rfl, by decide +kernel, by decide +kernel, by decide +kernel, by decide +kernel⟩

theorem witness_PinMapIsPartialAndInjective :
    pinMap testParams 20 = some 1 ∧
    ∃ f : Fin 256 → Option (Fin 6), (∀ x y b, f x = some b → f y = some b → x = y) ∧ f 255 = some 5 := by
  refine ⟨by decide +kernel, fun x => if x = 255 then some 5 else none, ?_, rfl⟩
  intro x y b hx hy
  by_cases h : x = 255 <;> by_cases k : y = 255 <;> simp_all

theorem witness_WindowRunsFromTheAcceptedEdge :
    ∃ t, Ready (withButton 0 { pressed := false, lastPressUs := 0 } 60000) ∧ pinMap testParams 13 = some 0 ∧
      (50000 < ((60000#64).toNat + 2 ^ 64 - (0#64).toNat) % 2 ^ 64) ∧
      exec (.btnEdge 13) (withButton 0 { pressed := false, lastPressUs := 0 } 60000) = .next t ∧
      (50000 < 2 ^ 64 ∧ 50000 ≤ 50000) ∧ (50001 < 2 ^ 64 ∧ 50000 < 50001) :=
  ⟨_, rfl, by decide +kernel, by decide +kernel, rfl, by decide +kernel, by decide +kernel⟩

theorem witness_EarlyEdgeIsDiscarded :
    let s := withButton 0 { pressed := true, lastPressUs := 0 } 50000
    Ready s ∧ (∀ b, (s.block.button b).lastPressUs = 0) ∧ s.block.tbUs.toNat ≤ 50000 :=
  ⟨rfl, by decide +kernel, by decide +kernel⟩

theorem witness_InSnapRespondsTheSnapshot : Ready start := rfl

theorem witness_InClrClearsEveryFlag : Ready (withButton 5 { pressed := true, lastPressUs := 60000 } 70000) := rfl

/-- Either outcome of the publish. -/
theorem witness_PubCopiesTheFrameOrFails :
    Ready (withFrame allOk) ∧ (withFrame allOk).draws.pubOk = true ∧
    Ready (withFrame allFail) ∧ (withFrame allFail).draws.pubOk = false := ⟨rfl, rfl, rfl, rfl⟩

/-- The last byte of the frame, where the master reads exactly the frame and where it reads on. -/
theorem witness_I2cRdRespondsTheBuffer : Ready withTxbuf ∧ 24 < 25 ∧ 24 < 27 := ⟨rfl, by decide, by decide⟩

/-- The largest change that packs with a period of 1 ms, the least that does not (V-VEL-11, V-VEL-12), and a record to pack. -/
theorem witness_VelocityPacksAsTruncatedQuotient :
    1 ≠ 0 ∧ toFix (velOf 21474 1) = some 2147400000 ∧ toFix (velOf 21475 1) = none ∧ Ready start ∧
    -(2 ^ 31) ≤ Int.tdiv (100000 * 21474) 1 ∧ Int.tdiv (100000 * 21474) 1 ≤ 2 ^ 31 - 1 ∧
    ({ record with vel0 := velOf 21474 1 }).vel0 = velOf 21474 1 ∧ toFix record.vel1 ≠ none ∧
    ({ record with vel1 := velOf 21474 1 }).vel1 = velOf 21474 1 ∧ toFix record.vel0 ≠ none :=
  ⟨by decide, by decide +kernel, by decide +kernel, rfl, by decide +kernel, by decide +kernel, rfl, by decide +kernel, rfl,
    by decide +kernel⟩

theorem witness_PackReplacesTheFrame :
    Ready start ∧ toFix record.vel0 = some 1234 ∧ toFix record.vel1 = some (-700) ∧ toFix (mkRat 2147483648 100) = none :=
  ⟨rfl, by decide +kernel, by decide +kernel, by decide +kernel⟩

theorem witness_ToFixTruncatesTowardZero :
    ⌊(mkRat 2147483647 100) * 100⌋ = 2147483647 ∧ ⌊(mkRat 2147483648 100) * 100⌋ = 2147483648 ∧
    ⌈(mkRat (-2147483648) 100) * 100⌉ = -2147483648 ∧ ⌈(mkRat (-2147483649) 100) * 100⌉ = -2147483649 := by
  decide +kernel

theorem witness_VelocityFitsTheFrame :
    ((-40000 : Int) ≤ 40000 ∧ 2 ≤ 2) ∧ (toFix (velOf 40000 2)).isSome = true ∧ toFix (velOf 21475 1) = none := by
  decide +kernel

theorem witness_FrameBytesLayout : Memory.wf (Memory.ofBytes recordBytes) = true := by decide +kernel

theorem witness_MasterUnpacksWhatWasPacked :
    Ready start ∧ start.draws.pubOk = true ∧ toFix record.vel0 = some 1234 ∧ toFix record.vel1 = some (-700) :=
  ⟨rfl, rfl, by decide +kernel, by decide +kernel⟩

theorem witness_MasterReadsThePublishedFrame : ∃ t, exec (.pack PackRecord.zero) start = .next t ∧ Ready t :=
  ⟨_, rfl, rfl⟩

theorem witness_TxbufOnlyTakesTheFrame :
    (∃ t, step (presents 0x80000000#32) = .next t) ∧ (∃ t, step (scheduled start .reset) = .next t) :=
  ⟨⟨_, rfl⟩, ⟨_, rfl⟩⟩

theorem witness_BuffersThatReadAlikeAreEqual :
    Memory.wf [(0, 1), (24, 255)] = true ∧ Memory.wf [] = true := by decide +kernel

theorem witness_EncoderActionsFrame :
    (∃ t, exec (.encReset 0) edgeState = .next t ∧ Ready t) ∧ (∃ t, exec (.encVel 1 10) edgeState = .next t ∧ Ready t) ∧
    (∃ t, exec (.qin 0 false true) edgeState = .next t ∧ Ready t) := ⟨⟨_, rfl, rfl⟩, ⟨_, rfl, rfl⟩, ⟨_, rfl, rfl⟩⟩

theorem witness_ReadOnlyActionsFrame :
    (∃ t, exec (.encPos 1) edgeState = .next t ∧ Ready t) ∧ (∃ t, exec .inSnap edgeState = .next t ∧ Ready t) ∧
    (∃ t, exec (.i2cRd 27) edgeState = .next t ∧ Ready t) := ⟨⟨_, rfl, rfl⟩, ⟨_, rfl, rfl⟩, ⟨_, rfl, rfl⟩⟩

theorem witness_ButtonActionsFrame :
    (∃ t, exec (.btnEdge 13) start = .next t) ∧ (∃ t, exec .inClr start = .next t) := ⟨⟨_, rfl⟩, ⟨_, rfl⟩⟩

theorem witness_BufferActionsFrame :
    (∃ t, exec (.pack PackRecord.zero) start = .next t ∧ Ready t) ∧ (∃ t, exec .pub start = .next t ∧ Ready t) :=
  ⟨⟨_, rfl, rfl⟩, ⟨_, rfl, rfl⟩⟩

theorem witness_ActionsChangeOnlyTheBlock : ∃ t, exec (.encPos 9) start = .next t := ⟨_, rfl⟩

theorem witness_ElementsHaveTheirWritersOnly :
    ∃ t, exec .inSnap start = .next t ∧ (∀ e a b, Instr.inSnap ≠ .qin e a b) ∧ (∀ e, Instr.inSnap ≠ .encReset e) ∧
      (∀ e p, Instr.inSnap ≠ .encVel e p) ∧ Instr.inSnap ≠ .inClr ∧ (∀ pin, Instr.inSnap ≠ .btnEdge pin) ∧
      (∀ r, Instr.inSnap ≠ .pack r) ∧ Instr.inSnap ≠ .pub :=
  ⟨_, rfl, by simp, by simp, by simp, by simp, by simp, by simp, by simp⟩

theorem witness_EveryStepKeepsTheInvariant :
    ∃ t, Inv edgeState ∧ exec (.qin 0 false true) edgeState = .next t ∧ step (edgeState.withFetchWord 32 0x90000001) =
      .next { t with schedule := [], moves := 1, port := .qphase 0, draws := Config.freeDraws 0 } :=
  ⟨_, edgeState_inv, rfl, rfl⟩

theorem witness_DrawsMatterOnlyWhereListed :
    let d : Draws := { allFail with cntOk := true }
    d ≠ start.draws ∧ ((∃ e, Instr.encPos 0 = .encReset e ∨ Instr.encPos 0 = .encPos e ∨ ∃ p, Instr.encPos 0 = .encVel e p) →
      d.cntOk = start.draws.cntOk) := ⟨by decide +kernel, fun _ => rfl⟩

theorem witness_IdempotentActions :
    (∃ t, exec (.encReset 0) edgeState = .next t ∧ Ready t) ∧ (∃ t, exec .inClr edgeState = .next t ∧ Ready t) ∧
    (∃ t, exec (.pack PackRecord.zero) edgeState = .next t ∧ Ready t) ∧ (∃ t, exec .pub edgeState = .next t ∧ Ready t) ∧
    (∃ t, exec (.encPos 0) edgeState = .next t ∧ Ready t) ∧ (∃ t, exec .inSnap edgeState = .next t ∧ Ready t) ∧
    (∃ t, exec (.i2cRd 25) edgeState = .next t ∧ Ready t) :=
  ⟨⟨_, rfl, rfl⟩, ⟨_, rfl, rfl⟩, ⟨_, rfl, rfl⟩, ⟨_, rfl, rfl⟩, ⟨_, rfl, rfl⟩, ⟨_, rfl, rfl⟩, ⟨_, rfl, rfl⟩⟩

/-- Every stage of Task B's cycle, with a period, velocities that pack, and either outcome of the publish. -/
theorem witness_CycleBFollowsItsProgram (st : Stage) (ok : Bool) :
    ∃ (s : State) (d : Draws), Ready s ∧ s.schedule = .taskB 10 61 d :: [] ∧ s.taskB.stage = st ∧ s.taskB.p ≠ 0 ∧
      toFix s.taskB.r1 = some 0 ∧ toFix s.taskB.r3 = some 0 ∧ d.pubOk = ok :=
  ⟨{ start with taskB := { Task.reset with stage := st, p := 10 }, schedule := [.taskB 10 61 { allOk with pubOk := ok }] },
    { allOk with pubOk := ok }, rfl, rfl, rfl, (by decide +kernel : (10#16) ≠ 0),
    (by decide +kernel : toFix 0 = some 0), (by decide +kernel : toFix 0 = some 0), rfl⟩

/-- The stages that fault: a period of 0, and a velocity out of range at either encoder. -/
theorem witness_CycleBFollowsItsProgram_faults (st : Stage) :
    (∃ s : State, Ready s ∧ s.schedule = .taskB 10 61 allOk :: [] ∧ s.taskB.stage = st ∧ s.taskB.p = 0) ∧
    (∃ s : State, Ready s ∧ s.schedule = .taskB 10 61 allOk :: [] ∧ s.taskB.stage = st ∧ toFix s.taskB.r1 = none) ∧
    (∃ s : State, Ready s ∧ s.schedule = .taskB 10 61 allOk :: [] ∧ s.taskB.stage = st ∧ toFix s.taskB.r3 = none) :=
  ⟨⟨{ start with taskB := { Task.reset with stage := st }, schedule := [.taskB 10 61 allOk] }, rfl, rfl, rfl, rfl⟩,
   ⟨{ start with taskB := { Task.reset with stage := st, r1 := 30000000 }, schedule := [.taskB 10 61 allOk] }, rfl, rfl, rfl,
     (by decide +kernel : toFix 30000000 = none)⟩,
   ⟨{ start with taskB := { Task.reset with stage := st, r3 := 30000000 }, schedule := [.taskB 10 61 allOk] }, rfl, rfl, rfl,
     (by decide +kernel : toFix 30000000 = none)⟩⟩

/-- The stages of Task A's cycle that fault: a period of 0. -/
theorem witness_CycleAFollowsItsProgram_faults (st : Stage) :
    ∃ s : State, Ready s ∧ s.schedule = .taskA 20 allOk :: [] ∧ s.taskA.stage = st ∧ s.taskA.p = 0 :=
  ⟨{ start with taskA := { Task.reset with stage := st }, schedule := [.taskA 20 allOk] }, rfl, rfl, rfl, rfl⟩

/-- Every stage of Task A's cycle, with a period. -/
theorem witness_CycleAFollowsItsProgram (st : Stage) :
    ∃ (s : State), Ready s ∧ s.schedule = .taskA 20 allOk :: [] ∧ s.taskA.stage = st ∧ s.taskA.p ≠ 0 :=
  ⟨{ start with taskA := { Task.reset with stage := st, p := 20 }, schedule := [.taskA 20 allOk] }, rfl, rfl, rfl,
    (by decide +kernel : (20#16) ≠ 0)⟩

theorem witness_CyclesKeepTheDiscipline : TaskAInv Task.reset ∧ TaskAInv { Task.reset with stage := .vel1 } :=
  ⟨.inl rfl, .inr (.inr (.inr rfl))⟩

theorem witness_BtnPressIsTheEdgeOfItsPin :
    pinMap testParams 14 = some 2 ∧ btnPressWord testParams 2 = some 0x400E0000#32 ∧ btnPressWord testParams 5 = none := by
  decide +kernel

end Sys2Proof.Tests
end

