-- ==== Sys2Proof/Proofs/Scope.lean ====
section
/-! PROOFS. The pin map against its table, how a step runs what the schedule lists, and the two statements of
00_scope.md. -/

namespace Sys2Proof.Machine

open Sys2Proof.Safety

/-! ### The pin map (00_scope.md R8) -/

theorem pinMap_lt {p : Params} {pin : Nat} {b : Fin Config.nBtn} (h : pinMap p pin = some b) : pin < 256 := by
  obtain ⟨x, -, rfl⟩ := Option.map_eq_some_iff.1 (pinMap_some h)
  exact x.isLt

theorem pinMap_injective {p : Params} {pin pin' : Nat} {b : Fin Config.nBtn} (h : pinMap p pin = some b)
    (h' : pinMap p pin' = some b) : pin = pin' :=
  Option.some_inj.1 ((pinMap_some h).symm.trans (pinMap_some h'))

/-- A pin that the table gives to some button is mapped, if perhaps to an earlier button that has it too (log 6). -/
theorem exists_pinMap_of_pinOf {p : Params} {x : Fin 256} {b : Fin Config.nBtn} (h : p.pinOf.get b = some x) :
    ∃ b', pinMap p x.val = some b' := by
  refine Option.isSome_iff_exists.1 (List.find?_isSome.2 ⟨b, List.mem_finRange b, ?_⟩)
  simp [h]

/-- The table of a map from pins to buttons: for each button the first pin the map sends to it. -/
def pinTable (f : Fin 256 → Option (Fin Config.nBtn)) : Vector (Option (Fin 256)) Config.nBtn :=
  Vector.ofFn fun b => (List.finRange 256).find? fun x => f x == some b

theorem pinTable_get_eq_some_iff {f : Fin 256 → Option (Fin Config.nBtn)}
    (hf : ∀ x y b, f x = some b → f y = some b → x = y) (b : Fin Config.nBtn) (x : Fin 256) :
    (pinTable f).get b = some x ↔ f x = some b := by
  have hget : (pinTable f).get b = (List.finRange 256).find? fun x => f x == some b := by
    simp [pinTable, Vector.get_eq_getElem]
  rw [hget]
  constructor
  · exact fun h => by simpa using List.find?_some h
  · intro hx
    obtain ⟨y, hy⟩ : ∃ y, (List.finRange 256).find? (fun x => f x == some b) = some y :=
      Option.isSome_iff_exists.1 (List.find?_isSome.2 ⟨x, List.mem_finRange x, by simp [hx]⟩)
    have hfy : f y = some b := by simpa using List.find?_some hy
    rw [hy, hf y x b hfy hx]

/-- The model's pin map with the table of a partial injective map is that map. -/
theorem pinMap_of_pinTable {f : Fin 256 → Option (Fin Config.nBtn)}
    (hf : ∀ x y b, f x = some b → f y = some b → x = y) {p : Params} (hp : p.pinOf = pinTable f) (x : Fin 256) :
    pinMap p x.val = f x := by
  have table (b : Fin Config.nBtn) : p.pinOf.get b = some x ↔ f x = some b :=
    hp ▸ pinTable_get_eq_some_iff hf b x
  have sound (b : Fin Config.nBtn) (h : pinMap p x.val = some b) : f x = some b := by
    obtain ⟨y, hy, hyx⟩ := Option.map_eq_some_iff.1 (pinMap_some h)
    exact (table b).1 (Fin.ext hyx ▸ hy)
  refine Option.ext fun b => ⟨sound b, fun h => ?_⟩
  obtain ⟨b', hb'⟩ := exists_pinMap_of_pinOf ((table b).2 h)
  rw [hb', ← sound b' hb', h]

/-- Settles O24: a mapped pin is the pin the table has for the button, and the table of an injective map gives the map
back. -/
theorem pinMapIsPartialAndInjective : Obligations.PinMapIsPartialAndInjective :=
  ⟨fun _ _ _ => pinMap_lt, fun _ _ _ _ => pinMap_injective,
    fun f hf => ⟨{ (default : Params) with pinOf := pinTable f }, pinMap_of_pinTable hf rfl⟩⟩

/-! ### A presented word (30_encoding.md R76) -/

theorem present_of_decode_ok {a : Agent} {w : Word} {r : PackRecord} {d : Draws} {i : Instr} (h : decode w r = .ok i)
    (s : State) : present a w r d s = exec i (latch a d s) := by
  simp only [present, h]

theorem raise_eq_faulted {s : State} (hs : Ready s) (c : FaultCode) (w : Word) : raise c w s = faulted s c.number w := by
  rw [raise, Block.enterFault_of_zero hs, faulted]

theorem present_of_decode_error {s : State} (hs : Ready s) {a : Agent} {w : Word} {r : PackRecord} {d : Draws}
    {why : Reject} (h : decode w r = .error why) : present a w r d s = .next (faulted (latch a d s) 1 w) := by
  have hl : Ready (latch a d s) := hs
  simp only [present, h, illegalWord, act_of_running hl, faults, raise_eq_faulted hl, FaultCode.number]

theorem advance_of_cons {s : State} {ev : Event} {rest : List Event} (h : s.schedule = ev :: rest) :
    advance s = { s with schedule := rest, moves := s.moves + 1 } := by
  simp [advance, h]

theorem step_of_cons {s : State} {ev : Event} {rest : List Event} (h : s.schedule = ev :: rest) :
    step s = runEvent ev { s with schedule := rest, moves := s.moves + 1 } := by
  rw [step, nextEvent_of_cons h, advance_of_cons h]

/-! ### What a task's step can do (30_encoding.md R81, R82) -/

/-- A task's step that answers a next state has presented the action of its stage, and has then kept the response and
moved on, unless the action faulted. -/
theorem stepTaskA_next {p : BitVec 16} {d : Draws} {s t : State} (h : stepTaskA p d s = .next t) :
    ∃ u : Task, u = s.taskA.start p s.taskA.ts ∧ ∃ s' : State,
      present .taskA (encode u.action) (recordOf u.action) d { s with taskA := u } = .next s' ∧
        t = if s'.block.running then { s' with taskA := u.afterA s'.answer } else s' := by
  refine ⟨_, rfl, ?_⟩
  dsimp only [stepTaskA] at h
  split at h
  · next s' hs' => exact ⟨s', hs', (Host.Outcome.next.inj h).symm⟩
  · cases h
  · cases h

@[inherit_doc stepTaskA_next]
theorem stepTaskB_next {p : BitVec 16} {ts : BitVec 32} {d : Draws} {s t : State} (h : stepTaskB p ts d s = .next t) :
    ∃ u : Task, u = s.taskB.start p ts ∧ ∃ s' : State,
      present .taskB (encode u.action) (recordOf u.action) d { s with taskB := u } = .next s' ∧
        t = if s'.block.running then { s' with taskB := u.afterB s'.answer } else s' := by
  refine ⟨_, rfl, ?_⟩
  dsimp only [stepTaskB] at h
  split at h
  · next s' hs' => exact ⟨s', hs', (Host.Outcome.next.inj h).symm⟩
  · cases h
  · cases h

/-! ### What no step writes (00_scope.md R8; log 1, log 3) -/

/-- `t` has the schedule, the count of steps and the OPEN parameters of `s`. -/
structure SameSchedule (s t : State) : Prop where
  schedule : t.schedule = s.schedule
  moves : t.moves = s.moves
  params : t.params = s.params

theorem exec_sameSchedule {i : Instr} {s t : State} (h : exec i s = .next t) : SameSchedule s t := by
  obtain ⟨-, ⟨c, rfl⟩ | ⟨b, r, rfl⟩⟩ := exec_next h
  · exact ⟨rfl, rfl, rfl⟩
  · exact ⟨rfl, rfl, rfl⟩

theorem present_sameSchedule {a : Agent} {w : Word} {r : PackRecord} {d : Draws} {s t : State}
    (h : present a w r d s = .next t) : SameSchedule s t := by
  obtain ⟨i, -, h⟩ | ⟨-, rfl⟩ := present_next h
  · obtain ⟨hschedule, hmoves, hparams⟩ := exec_sameSchedule h
    exact ⟨hschedule, hmoves, hparams⟩
  · exact ⟨rfl, rfl, rfl⟩

theorem stepTaskA_sameSchedule {p : BitVec 16} {d : Draws} {s t : State} (h : stepTaskA p d s = .next t) :
    SameSchedule s t := by
  obtain ⟨u, -, s', hs', rfl⟩ := stepTaskA_next h
  obtain ⟨hschedule, hmoves, hparams⟩ := present_sameSchedule hs'
  split <;> exact ⟨hschedule, hmoves, hparams⟩

theorem stepTaskB_sameSchedule {p : BitVec 16} {ts : BitVec 32} {d : Draws} {s t : State}
    (h : stepTaskB p ts d s = .next t) : SameSchedule s t := by
  obtain ⟨u, -, s', hs', rfl⟩ := stepTaskB_next h
  obtain ⟨hschedule, hmoves, hparams⟩ := present_sameSchedule hs'
  split <;> exact ⟨hschedule, hmoves, hparams⟩

theorem runEvent_sameSchedule {ev : Event} {s t : State} (h : runEvent ev s = .next t) : SameSchedule s t := by
  cases ev with
  | present a w r d => exact present_sameSchedule h
  | taskA p d => exact stepTaskA_sameSchedule h
  | taskB p ts d => exact stepTaskB_sameSchedule h
  | tick more => cases h; exact ⟨rfl, rfl, rfl⟩
  | masterWrite data => cases h; exact ⟨rfl, rfl, rfl⟩
  | reset => cases h; exact ⟨rfl, rfl, rfl⟩

/-- Settles O6: the schedule's first step runs on the advanced state, and no event writes what `advance` has set. -/
theorem stepRunsTheDecodedAction : Obligations.StepRunsTheDecodedAction := by
  refine ⟨fun s a w r d rest i hsched hdec => ?_, fun s a w r d rest why hs hsched hdec => ?_, fun s t h => ?_⟩
  · rw [step_of_cons hsched, runEvent, present_of_decode_ok hdec, latch]
  · have hready : Ready { s with schedule := rest, moves := s.moves + 1 } := hs
    rw [step_of_cons hsched, runEvent, present_of_decode_error hready hdec, latch]
  · obtain ⟨hschedule, hmoves, hparams⟩ := runEvent_sameSchedule h
    exact ⟨hschedule, hmoves, hparams⟩

end Sys2Proof.Machine
end

