-- ==== Sys2Proof/Proofs/State.lean ====
section
/-! PROOFS. What an action writes, element by element (10_state.md R38), what a step writes, the invariant kept by each write,
and the statements of 10_state.md. -/

namespace Sys2Proof.Machine

open Sys2Proof.Safety

/-! ### What an action leaves alone outside the block (10_state.md R20, R35, R37) -/

/-- Settles O44: fault entry and completion both write the block and the response alone. -/
theorem actionsChangeOnlyTheBlock : Obligations.ActionsChangeOnlyTheBlock := by
  intro i s t h
  obtain ⟨-, ⟨c, rfl⟩ | ⟨b, r, rfl⟩⟩ := exec_next h
  · rfl
  · rfl

/-! ### What an action writes, element by element (10_state.md R38) -/

/-- What an action can make of one encoder. -/
inductive EncoderWrite (policy : LimitPolicy) (ok : Bool) (c : Encoder) : Instr → Encoder → Prop
  | unchanged (i : Instr) : EncoderWrite policy ok c i c
  | logicalReset (e : Nat) : EncoderWrite policy ok c (.encReset e) (c.logicalReset ok)
  | baseline (e p : Nat) : EncoderWrite policy ok c (.encVel e p) { c with last := readPosition ok c }
  | phase (e : Nat) (x y : Bool) : EncoderWrite policy ok c (.qin e x y) (c.phase policy (levels x y))

/-- What an action can make of one button. -/
inductive ButtonWrite (now : Micros) (v : Button) : Instr → Button → Prop
  | unchanged (i : Instr) : ButtonWrite now v i v
  | edge (pin : Nat) : ButtonWrite now v (.btnEdge pin) (v.edge now)
  | clear : ButtonWrite now v .inClr { v with pressed := false }

/-- What an action can make of the frame buffer. -/
inductive FrameWrite (m : Memory) : Instr → Memory → Prop
  | unchanged (i : Instr) : FrameWrite m i m
  | pack {r : PackRecord} {q0 q1 : S32} (h0 : toFix r.vel0 = some q0) (h1 : toFix r.vel1 = some q1) :
      FrameWrite m (.pack r) (Memory.ofBytes (frameBytes r q0 q1))

/-- What the action `i` can make of the block `b` under the parameters `p` and the draws `d`. -/
structure BlockWrite (p : Params) (d : Draws) (b : Block) (i : Instr) (b' : Block) : Prop where
  encoder : ∀ e, EncoderWrite p.limitPolicy d.cntOk (b.encoder e) i (b'.encoder e)
  button : ∀ k, ButtonWrite b.tbUs (b.button k) i (b'.button k)
  tbUs : b'.tbUs = b.tbUs
  frame : FrameWrite b.frame i b'.frame
  txbuf : b'.txbuf = b.txbuf ∨ i = .pub ∧ b'.txbuf = b.frame
  fault : (b'.faultCode = b.faultCode ∧ b'.faultWord = b.faultWord) ∨
    ∃ c : FaultCode, b'.faultCode = c.number ∧ b'.faultWord = encode i

section
variable (p : Params) (d : Draws) (b : Block)

theorem BlockWrite.refl (i : Instr) : BlockWrite p d b i b where
  encoder _ := .unchanged i
  button _ := .unchanged i
  tbUs := rfl
  frame := .unchanged i
  txbuf := .inl rfl
  fault := .inl ⟨rfl, rfl⟩

variable {p d b}

theorem BlockWrite.setEncoder {i : Instr} {e : Fin Config.nEnc} {v : Encoder}
    (h : EncoderWrite p.limitPolicy d.cntOk (b.encoder e) i v) : BlockWrite p d b i (b.setEncoder e v) :=
  { BlockWrite.refl p d b i with
    encoder := fun f => by
      rw [Block.encoder_setEncoder]
      split
      · next hf => exact hf ▸ h
      · exact .unchanged i }

theorem BlockWrite.pinEdge (pin : Nat) : BlockWrite p d b (.btnEdge pin) (b.pinEdge p pin) := by
  unfold Block.pinEdge
  split
  · exact .refl p d b _
  · next k _ =>
    exact { BlockWrite.refl p d b (.btnEdge pin) with
      button := fun j => by
        rw [Block.button_setButton]
        split
        · next hj => exact hj ▸ .edge pin
        · exact .unchanged _ }

theorem BlockWrite.clearPressed : BlockWrite p d b .inClr b.clearPressed :=
  { BlockWrite.refl p d b .inClr with
    button := fun k => by rw [Block.clearPressed_button]; exact .clear }

theorem BlockWrite.setFrame {i : Instr} {m : Memory} (h : FrameWrite b.frame i m) :
    BlockWrite p d b i { b with frame := m } :=
  { BlockWrite.refl p d b i with frame := h }

theorem BlockWrite.pub (ok : Bool) : BlockWrite p d b .pub { b with txbuf := if ok then b.frame else b.txbuf } :=
  { BlockWrite.refl p d b .pub with
    txbuf := match ok with
      | true => .inr ⟨rfl, rfl⟩
      | false => .inl rfl }

theorem BlockWrite.enterFault (hb : b.faultCode = 0#8) (i : Instr) (c : FaultCode) :
    BlockWrite p d b i (b.enterFault c (encode i)) := by
  rw [Block.enterFault_of_zero hb]
  exact { BlockWrite.refl p d b i with fault := .inr ⟨c, rfl, rfl⟩ }

end

/-- What an encoder action writes: the fault registers, where its index names no encoder, or what it does on the encoder. -/
theorem actOnEncoder_blockWrite {s t : State} {e : Nat} {i : Instr} {k : Fin Config.nEnc → Result}
    (h : actOnEncoder s e (encode i) k = .next t)
    (hk : s.block.faultCode = 0#8 → ∀ f, k f = .next t → BlockWrite s.params s.draws s.block i t.block) :
    BlockWrite s.params s.draws s.block i t.block := by
  obtain ⟨hs, rfl | ⟨he, h⟩⟩ := actOnEncoder_next h
  · exact .enterFault hs i .badIndex
  · exact hk hs ⟨e, he⟩ h

theorem complete_block {s t : State} {b : Block} {r : Option Response} (h : complete s b r = .next t) : t.block = b := by
  rw [complete_next h]

theorem faults_block {s t : State} {c : FaultCode} {w : Word} (h : faults s c w = .next t) :
    t.block = s.block.enterFault c w := by
  rw [faults_next h, raise_block]

/-- Everything an action writes of the block. -/
theorem exec_blockWrite {i : Instr} {s t : State} (h : exec i s = .next t) :
    BlockWrite s.params s.draws s.block i t.block := by
  cases i with
  | encReset e =>
    unfold exec execEncReset at h
    refine actOnEncoder_blockWrite h fun _ f h => ?_
    exact complete_block h ▸ .setEncoder (.logicalReset e)
  | encPos e =>
    unfold exec execEncPos at h
    refine actOnEncoder_blockWrite h fun _ f h => ?_
    exact complete_block h ▸ .refl ..
  | encVel e p =>
    unfold exec execEncVel at h
    refine actOnEncoder_blockWrite h fun hs f h => ?_
    dsimp only at h
    split at h
    · exact faults_block h ▸ .enterFault hs _ .zeroPeriod
    · exact complete_block h ▸ .setEncoder (.baseline e p)
  | btnEdge pin => exact complete_block (act_next h).2 ▸ .pinEdge pin
  | inSnap => exact complete_block (act_next h).2 ▸ .refl ..
  | inClr => exact complete_block (act_next h).2 ▸ .clearPressed
  | pack r =>
    obtain ⟨hs, h⟩ := act_next h
    split at h
    · next q0 q1 h0 h1 => exact complete_block h ▸ .setFrame (.pack h0 h1)
    · exact faults_block h ▸ .enterFault hs _ .velRange
  | pub => exact complete_block (act_next h).2 ▸ .pub _
  | qin e x y =>
    unfold exec execQin at h
    refine actOnEncoder_blockWrite h fun _ f h => ?_
    exact complete_block h ▸ .setEncoder (.phase e x y)
  | i2cRd n => exact complete_block (act_next h).2 ▸ .refl ..

/-! ### The writers of each element (10_state.md R38) -/

theorem Encoder.logicalReset_raw (ok : Bool) (c : Encoder) : (c.logicalReset ok).raw = c.raw := by
  cases ok <;> rfl

theorem Encoder.logicalReset_qstate (ok : Bool) (c : Encoder) : (c.logicalReset ok).qstate = c.qstate := by
  cases ok <;> rfl

section
variable {policy : LimitPolicy} {ok : Bool} {c c' : Encoder} {i : Instr}

theorem EncoderWrite.raw_qstate (h : EncoderWrite policy ok c i c') (hq : ∀ e x y, i ≠ .qin e x y) :
    c'.raw = c.raw ∧ c'.qstate = c.qstate := by
  cases h with
  | unchanged => exact ⟨rfl, rfl⟩
  | logicalReset e => exact ⟨c.logicalReset_raw ok, c.logicalReset_qstate ok⟩
  | baseline e p => exact ⟨rfl, rfl⟩
  | phase e x y => exact absurd rfl (hq e x y)

theorem EncoderWrite.offset (h : EncoderWrite policy ok c i c') (hr : ∀ e, i ≠ .encReset e) : c'.offset = c.offset := by
  cases h with
  | unchanged => rfl
  | logicalReset e => exact absurd rfl (hr e)
  | baseline e p => rfl
  | phase e x y => rfl

theorem EncoderWrite.last (h : EncoderWrite policy ok c i c') (hr : ∀ e, i ≠ .encReset e)
    (hv : ∀ e p, i ≠ .encVel e p) : c'.last = c.last := by
  cases h with
  | unchanged => rfl
  | logicalReset e => exact absurd rfl (hr e)
  | baseline e p => exact absurd rfl (hv e p)
  | phase e x y => rfl

end

/-- An edge clears no flag (41_input.md R131). -/
theorem Button.edge_pressed {v : Button} (h : v.pressed = true) (now : Micros) : (v.edge now).pressed = true := by
  unfold Button.edge
  split
  · rfl
  · exact h

section
variable {now : Micros} {v v' : Button} {i : Instr}

theorem ButtonWrite.stays_pressed (h : ButtonWrite now v i v') (hc : i ≠ .inClr) (hv : v.pressed = true) :
    v'.pressed = true := by
  cases h with
  | unchanged => exact hv
  | edge pin => exact Button.edge_pressed hv now
  | clear => exact absurd rfl hc

theorem ButtonWrite.was_pressed (h : ButtonWrite now v i v') (he : ∀ pin, i ≠ .btnEdge pin) (hv : v'.pressed = true) :
    v.pressed = true := by
  cases h with
  | unchanged => exact hv
  | edge pin => exact absurd rfl (he pin)
  | clear => cases hv

theorem ButtonWrite.lastPressUs (h : ButtonWrite now v i v') (he : ∀ pin, i ≠ .btnEdge pin) :
    v'.lastPressUs = v.lastPressUs := by
  cases h with
  | unchanged => rfl
  | edge pin => exact absurd rfl (he pin)
  | clear => rfl

end

theorem FrameWrite.eq_of_ne_pack {m m' : Memory} {i : Instr} (h : FrameWrite m i m') (hp : ∀ r, i ≠ .pack r) : m' = m := by
  cases h with
  | unchanged => rfl
  | pack => exact absurd rfl (hp _)

/-- Settles O45: each element's writers are read off what an action can make of that element. -/
theorem elementsHaveTheirWritersOnly : Obligations.ElementsHaveTheirWritersOnly := by
  intro i s t h
  have w := exec_blockWrite h
  exact ⟨fun hq e => (w.encoder e).raw_qstate hq, fun hr e => (w.encoder e).offset hr,
    fun hr hv e => (w.encoder e).last hr hv, fun hc k => (w.button k).stays_pressed hc,
    fun he k => (w.button k).was_pressed he, fun he k => (w.button k).lastPressUs he, w.tbUs, w.frame.eq_of_ne_pack,
    fun hp => w.txbuf.resolve_right fun hw => hp hw.1⟩

/-! ### What a step writes of the block (60_exceptions.md R190) -/

/-- What a step of the schedule can make of the block `b`. -/
inductive StepWrite (p : Params) (b : Block) : Event → Block → Prop
  | action {ev : Event} {d : Draws} {i : Instr} {b' : Block} (h : BlockWrite p d b i b') : StepWrite p b ev b'
  | illegalWord (ev : Event) (w : Word) : StepWrite p b ev (b.enterFault .illegalAction w)
  | tick (more : Nat) : StepWrite p b (.tick more) { b with tbUs := b.tbUs + BitVec.ofNat 64 (more + 1) }
  | masterWrite (data : List Byte) : StepWrite p b (.masterWrite data) b
  | reset : StepWrite p b .reset (Block.reset p)

theorem present_stepWrite {a : Agent} {w : Word} {r : PackRecord} {d : Draws} {s t : State}
    (h : present a w r d s = .next t) (ev : Event) : StepWrite s.params s.block ev t.block := by
  obtain ⟨i, -, h⟩ | ⟨-, rfl⟩ := present_next h
  · exact .action (exec_blockWrite (s := latch a d s) h)
  · exact .illegalWord ev w

theorem runEvent_stepWrite {ev : Event} {s t : State} (h : runEvent ev s = .next t) :
    StepWrite s.params s.block ev t.block := by
  cases ev with
  | present a w r d => exact present_stepWrite h _
  | taskA p d =>
    obtain ⟨u, -, s', hs', rfl⟩ := stepTaskA_next h
    split <;> exact present_stepWrite hs' _
  | taskB p ts d =>
    obtain ⟨u, -, s', hs', rfl⟩ := stepTaskB_next h
    split <;> exact present_stepWrite hs' _
  | tick more => cases h; exact .tick more
  | masterWrite data => cases h; exact .masterWrite data
  | reset => cases h; exact .reset

theorem step_stepWrite {s t : State} (h : step s = .next t) : StepWrite s.params s.block (nextEvent s) t.block :=
  runEvent_stepWrite (s := advance s) h

theorem StepWrite.txbuf {p : Params} {b b' : Block} {ev : Event} (h : StepWrite p b ev b') :
    b'.txbuf = b.txbuf ∨ b'.txbuf = b.frame ∨ (ev = .reset ∧ b'.txbuf = []) := by
  cases h with
  | action h => exact h.txbuf.imp_right fun hw => .inl hw.2
  | illegalWord ev w => exact .inl (by simp)
  | tick more => exact .inl rfl
  | masterWrite data => exact .inl rfl
  | reset => exact .inr (.inr ⟨rfl, rfl⟩)

/-- Settles O38: only `PUB` writes the bus buffer, taking the frame, and the buffer at reset reads 0 everywhere. -/
theorem txbufOnlyTakesTheFrame : Obligations.TxbufOnlyTakesTheFrame := by
  intro s t h
  refine (step_stepWrite h).txbuf.imp_right (Or.imp_right fun ⟨hev, htx⟩ => ⟨hev, fun a ha => ?_⟩)
  rw [htx, Memory.read?_of_lt ha]
  rfl

/-! ### The limit function and the quadrature table (40_encoder.md R102, R103) -/

theorem qtab_cases (old new : BitVec 2) : qtab old new = 0 ∨ qtab old new = 1 ∨ qtab old new = -1 := by
  revert old new
  decide

/-- One step from a count within the limits, every policy answers a count within them. -/
theorem limit_within (policy : LimitPolicy) {old z : Int} (hlow : -10000 ≤ old) (hhigh : old ≤ 10000)
    (hz : z = old + 1 ∨ z = old - 1) : -10000 ≤ limit policy z ∧ limit policy z ≤ 10000 := by
  cases policy <;> simp only [limit, Config.cntHigh, Config.cntLow] <;> omega

/-- Under `ZERO` the limits themselves are never answered. -/
theorem limit_zero_strict (z : Int) : -10000 < limit .zero z ∧ limit .zero z < 10000 := by
  simp only [limit, Config.cntHigh, Config.cntLow]
  omega

/-! ### The invariant of an encoder (10_state.md R22, R26) -/

section
variable {policy : LimitPolicy} {c : Encoder}

/-- Within the limits the sum of count and offset does not wrap (10_state.md R26). -/
theorem position_toInt (h : EncoderInv policy c) : c.position.toInt = c.raw.toInt + c.offset.toInt := by
  obtain ⟨rawLow, rawHigh, -, offsetLow, offsetHigh, -, -⟩ := h
  exact wrap32_toInt (by omega) (by omega)

theorem readPosition_within (h : EncoderInv policy c) (ok : Bool) :
    -20000 ≤ (readPosition ok c).toInt ∧ (readPosition ok c).toInt ≤ 20000 := by
  have hpos := position_toInt h
  obtain ⟨rawLow, rawHigh, -, offsetLow, offsetHigh, -, -⟩ := h
  cases ok with
  | false => rw [readPosition_failed]; omega
  | true => rw [readPosition_ok]; omega

theorem logicalReset_inv (h : EncoderInv policy c) (ok : Bool) : EncoderInv policy (c.logicalReset ok) := by
  cases ok with
  | false => exact h
  | true =>
    have hlow := h.rawLow
    have hhigh := h.rawHigh
    have hneg : (wrap32 (-c.raw.toInt)).toInt = -c.raw.toInt := wrap32_toInt (by omega) (by omega)
    exact { h with
      offsetLow := hneg ▸ (by omega)
      offsetHigh := hneg ▸ (by omega)
      lastLow := (by decide : (-20000 : Int) ≤ (0 : S32).toInt)
      lastHigh := (by decide : (0 : S32).toInt ≤ 20000) }

theorem baseline_inv (h : EncoderInv policy c) (ok : Bool) :
    EncoderInv policy { c with last := readPosition ok c } :=
  { h with lastLow := (readPosition_within h ok).1, lastHigh := (readPosition_within h ok).2 }

theorem phase_inv (h : EncoderInv policy c) (new : BitVec 2) : EncoderInv policy (c.phase policy new) := by
  by_cases hd : qtab c.qstate new = 0
  · have hraw : (c.phase policy new).raw = c.raw := by simp [Encoder.phase, hd]
    exact { h with rawLow := hraw ▸ h.rawLow, rawHigh := hraw ▸ h.rawHigh, rawZero := hraw ▸ h.rawZero }
  · have hz : c.raw.toInt + qtab c.qstate new = c.raw.toInt + 1 ∨ c.raw.toInt + qtab c.qstate new = c.raw.toInt - 1 := by
      have := qtab_cases c.qstate new
      omega
    obtain ⟨hlow, hhigh⟩ := limit_within policy h.rawLow h.rawHigh hz
    have hraw : (c.phase policy new).raw.toInt = limit policy (c.raw.toInt + qtab c.qstate new) := by
      simp only [Encoder.phase, if_neg hd]
      exact wrap32_toInt (by omega) (by omega)
    exact { h with
      rawLow := hraw ▸ hlow
      rawHigh := hraw ▸ hhigh
      rawZero := fun hp => by subst hp; exact hraw ▸ limit_zero_strict _ }

theorem EncoderWrite.inv {ok : Bool} {i : Instr} {c' : Encoder} (w : EncoderWrite policy ok c i c')
    (h : EncoderInv policy c) : EncoderInv policy c' := by
  cases w with
  | unchanged => exact h
  | logicalReset e => exact logicalReset_inv h ok
  | baseline e p => exact baseline_inv h ok
  | phase e x y => exact phase_inv h _

end

/-- Settles O20: in range of the invariant the sum is below the width of s32. -/
theorem positionNeverWraps : Obligations.PositionNeverWraps := by
  intro s e he hinv hready hok
  have henc := hinv.block.encoders ⟨e, he⟩
  have hexec : exec (.encPos e) s = complete s s.block (some (.position (s.block.encoder ⟨e, he⟩).position)) := by
    rw [exec, execEncPos, actOnEncoder_of_lt hready he, rawReadOk_eq, hok, readPosition_ok]
  exact ⟨_, _, hexec, rfl, position_toInt henc, readPosition_within henc true⟩

/-! ### The invariant of the block (10_state.md R33; 42_telemetry.md R159; 60_exceptions.md R180) -/

theorem FaultCode.number_le (c : FaultCode) : c.number.toNat ≤ 4 := by
  cases c <;> decide

theorem FaultCode.number_ne_zero (c : FaultCode) : c.number ≠ 0#8 := by
  cases c <;> decide

theorem Block.reset_encoder (p : Params) (e : Fin Config.nEnc) :
    (Block.reset p).encoder e = { raw := 0, qstate := p.qstateInit.get e, offset := 0, last := 0 } := by
  simp [Block.encoder, Block.reset, Vector.get_eq_getElem]

theorem blockInv_reset (p : Params) : BlockInv p.limitPolicy (Block.reset p) where
  encoders e := by rw [Block.reset_encoder]; constructor <;> simp
  frameWf := reset_frame_wf p
  txbufWf := reset_txbuf_wf p
  frameIs := .inl rfl
  txbufIs := .inl rfl
  code := Nat.zero_le 4
  word _ := rfl

theorem FrameWrite.wf {m m' : Memory} {i : Instr} (w : FrameWrite m i m') (h : m.wf = true) : m'.wf = true := by
  cases w with
  | unchanged => exact h
  | pack => exact Memory.ofBytes_wf _

theorem FrameWrite.isFrame {m m' : Memory} {i : Instr} (w : FrameWrite m i m') (h : IsFrame m) : IsFrame m' := by
  cases w with
  | unchanged => exact h
  | pack h0 h1 => exact .inr ⟨_, _, _, h0, h1, rfl⟩

section
variable {policy : LimitPolicy} {b b' : Block}

theorem enterFault_inv (h : BlockInv policy b) (c : FaultCode) (w : Word) : BlockInv policy (b.enterFault c w) := by
  unfold Block.enterFault
  split
  · exact { h with code := c.number_le, word := fun h0 => absurd h0 c.number_ne_zero }
  · exact h

theorem BlockWrite.inv {p : Params} {d : Draws} {i : Instr} (w : BlockWrite p d b i b')
    (h : BlockInv p.limitPolicy b) : BlockInv p.limitPolicy b' where
  encoders e := (w.encoder e).inv (h.encoders e)
  frameWf := w.frame.wf h.frameWf
  frameIs := w.frame.isFrame h.frameIs
  txbufWf := by
    obtain htx | ⟨-, htx⟩ := w.txbuf
    · exact htx ▸ h.txbufWf
    · exact htx ▸ h.frameWf
  txbufIs := by
    obtain htx | ⟨-, htx⟩ := w.txbuf
    · exact htx ▸ h.txbufIs
    · exact htx ▸ h.frameIs
  code := by
    obtain ⟨hcode, -⟩ | ⟨c, hcode, -⟩ := w.fault
    · exact hcode ▸ h.code
    · exact hcode ▸ c.number_le
  word h0 := by
    obtain ⟨hcode, hword⟩ | ⟨c, hcode, -⟩ := w.fault
    · exact hword.trans (h.word (hcode.symm.trans h0))
    · exact absurd (hcode.symm.trans h0) c.number_ne_zero

theorem StepWrite.inv {p : Params} {ev : Event} (w : StepWrite p b ev b') (h : BlockInv p.limitPolicy b) :
    BlockInv p.limitPolicy b' := by
  cases w with
  | action w => exact w.inv h
  | illegalWord ev w => exact enterFault_inv h _ w
  | tick more => exact { h with }
  | masterWrite data => exact h
  | reset => exact blockInv_reset p

end

/-! ### Task A stands at a stage of its program (30_encoding.md R82; log 4) -/

theorem exec_taskA {i : Instr} {s t : State} (h : exec i s = .next t) : t.taskA = s.taskA := by
  rw [actionsChangeOnlyTheBlock i s t h]

theorem present_taskA {a : Agent} {w : Word} {r : PackRecord} {d : Draws} {s t : State}
    (h : present a w r d s = .next t) : t.taskA = s.taskA := by
  obtain ⟨i, -, h⟩ | ⟨-, rfl⟩ := present_next h
  · exact exec_taskA (s := latch a d s) h
  · rfl

theorem Task.start_stage (t : Task) (p : BitVec 16) (ts : BitVec 32) : (t.start p ts).stage = t.stage := by
  unfold Task.start
  split <;> rfl

/-- Task A's next stage is one of its program's four, whatever the stage was. -/
theorem afterA_inv (t : Task) (r : Option Response) : TaskAInv (t.afterA r) := by
  have hnext (st : Stage) : st.nextA = .pos0 ∨ st.nextA = .vel0 ∨ st.nextA = .pos1 ∨ st.nextA = .vel1 := by
    cases st <;> decide
  exact hnext _

theorem runEvent_taskAInv {ev : Event} {s t : State} (hs : TaskAInv s.taskA) (h : runEvent ev s = .next t) :
    TaskAInv t.taskA := by
  cases ev with
  | present a w r d => exact present_taskA h ▸ hs
  | taskA p d =>
    obtain ⟨u, rfl, s', hs', rfl⟩ := stepTaskA_next h
    split
    · exact afterA_inv _ _
    · rw [present_taskA hs', TaskAInv, Task.start_stage]
      exact hs
  | taskB p ts d =>
    obtain ⟨u, -, s', hs', rfl⟩ := stepTaskB_next h
    split <;> exact present_taskA hs' ▸ hs
  | tick more => cases h; exact hs
  | masterWrite data => cases h; exact hs
  | reset => cases h; exact .inl rfl

/-- Settles O47: the parameters stay, each write to the block keeps its part, and Task A's stages follow its program. -/
theorem everyStepKeepsTheInvariant : Obligations.EveryStepKeepsTheInvariant := by
  intro s t hinv h
  have hparams : t.params = s.params := (runEvent_sameSchedule (s := advance s) h).params
  exact ⟨hparams ▸ (step_stepWrite h).inv hinv.block, runEvent_taskAInv (s := advance s) hinv.taskA h⟩

end Sys2Proof.Machine
end

/-! PROOFS. Buffers in canonical form are fixed by what they read, what an action that completes makes of the block, and the
statements of 20_memory.md. -/

namespace Sys2Proof.Machine

open Sys2Proof.Safety

/-! ### A buffer is what it reads (20_memory.md R50; log 10) -/

section
variable {lo x : Nat} {v : Byte} {m : Memory}

theorem Memory.wfFrom_cons_iff : Memory.wfFrom lo ((x, v) :: m) = true ↔
    lo ≤ x ∧ x < Config.frameSize ∧ v ≠ 0#8 ∧ Memory.wfFrom (x + 1) m = true := by
  simp only [Memory.wfFrom, Bool.and_eq_true, decide_eq_true_eq, and_assoc]

theorem Memory.byte_cons_same (x : Nat) (v : Byte) (m : Memory) : Memory.byte ((x, v) :: m) x = v := if_pos rfl

theorem Memory.byte_cons_other {a : Nat} (h : a ≠ x) : Memory.byte ((x, v) :: m) a = m.byte a := if_neg h

/-- The first listed address is the lowest that does not hold 0x00. -/
theorem Memory.head_le {a : Nat} (hm : Memory.wfFrom lo ((x, v) :: m) = true)
    (ha : Memory.byte ((x, v) :: m) a ≠ 0#8) : x ≤ a := by
  obtain ⟨-, hx, hv, hm⟩ := wfFrom_cons_iff.1 hm
  by_contra hlt
  exact ha (byte_of_lt (Nat.lt_succ_self a) (wfFrom_cons_iff.2 ⟨Nat.not_le.1 hlt, hx, hv, hm⟩))

end

/-- The heads agree, since each stands at the lowest address that does not hold 0x00, and the tails by induction: up to the
head's address both hold 0x00. -/
theorem Memory.eq_of_byte_eq {lo : Nat} {m m' : Memory} (hm : Memory.wfFrom lo m = true)
    (hm' : Memory.wfFrom lo m' = true) (h : ∀ a < Config.frameSize, m.byte a = m'.byte a) : m = m' := by
  induction m generalizing lo m' with
  | nil =>
    cases m' with
    | nil => rfl
    | cons c m' =>
      obtain ⟨-, hx, hv, -⟩ := wfFrom_cons_iff.1 hm'
      exact absurd ((h _ hx).trans (byte_cons_same ..)).symm hv
  | cons c m ih =>
    obtain ⟨x, v⟩ := c
    obtain ⟨-, hx, hv, htail⟩ := wfFrom_cons_iff.1 hm
    have hbx := byte_cons_same x v m
    cases m' with
    | nil => exact absurd (hbx.symm.trans (h x hx)) hv
    | cons c' m' =>
      obtain ⟨y, w⟩ := c'
      obtain ⟨-, hy, hw, htail'⟩ := wfFrom_cons_iff.1 hm'
      have hby := byte_cons_same y w m'
      have hxy : x = y := le_antisymm (head_le hm (by rwa [h y hy, hby])) (head_le hm' (by rwa [← h x hx, hbx]))
      subst hxy
      have hvw : v = w := hbx.symm.trans ((h x hx).trans hby)
      have hmm : m = m' := ih htail htail' fun a ha => by
        by_cases hax : a = x
        · rw [hax, byte_of_lt (Nat.lt_succ_self x) htail, byte_of_lt (Nat.lt_succ_self x) htail']
        · rw [← byte_cons_other hax, h a ha, byte_cons_other hax]
      rw [hvw, hmm]

/-- Settles O39: at each of the 25 addresses what is read is the byte. -/
theorem buffersThatReadAlikeAreEqual : Obligations.BuffersThatReadAlikeAreEqual := by
  intro m m' hm hm' h
  refine Memory.eq_of_byte_eq hm hm' fun a ha => Option.some_inj.1 ?_
  rw [← Memory.read?_of_lt ha, ← Memory.read?_of_lt ha, h a ha]

/-! ### An action that does not fault completes (60_exceptions.md R181, R182) -/

theorem raise_not_ready (c : FaultCode) (w : Word) (s : State) : ¬ Ready (raise c w s) := by
  by_cases hs : Ready s
  · rw [raise_eq_faulted hs]
    exact c.number_ne_zero
  · rw [Ready, raise_block, Block.enterFault_of_ne hs]
    exact hs

/-- An encoder action that does not fault names an encoder (40_encoder.md R100). -/
theorem lt_of_actOnEncoder_ready {s t : State} {e : Nat} {w : Word} {k : Fin Config.nEnc → Result}
    (h : actOnEncoder s e w k = .next t) (ht : Ready t) : e < Config.nEnc := by
  obtain ⟨-, rfl | ⟨he, -⟩⟩ := actOnEncoder_next h
  · exact absurd ht (raise_not_ready _ _ _)
  · exact he

theorem lt_of_encReset_ready {s t : State} {e : Nat} (h : exec (.encReset e) s = .next t) (ht : Ready t) :
    e < Config.nEnc := by
  unfold exec execEncReset at h
  exact lt_of_actOnEncoder_ready h ht

theorem lt_of_encPos_ready {s t : State} {e : Nat} (h : exec (.encPos e) s = .next t) (ht : Ready t) :
    e < Config.nEnc := by
  unfold exec execEncPos at h
  exact lt_of_actOnEncoder_ready h ht

/-- A `PACK` that does not fault has two velocities in range (42_telemetry.md R151). -/
theorem toFix_of_pack_ready {s t : State} {r : PackRecord} (h : exec (.pack r) s = .next t) (ht : Ready t) :
    ∃ q0 q1, toFix r.vel0 = some q0 ∧ toFix r.vel1 = some q1 := by
  obtain ⟨-, h⟩ := act_next h
  split at h
  · next q0 q1 h0 h1 => exact ⟨q0, q1, h0, h1⟩
  · exact absurd (faults_next h ▸ ht) (raise_not_ready _ _ _)

/-- With the draws `d` the action `i` completes on every running block, and makes of it what `f` makes of it. -/
def Completes (i : Instr) (d : Draws) (f : Block → Block) : Prop :=
  ∀ s, Ready s → s.draws = d → ∃ r, exec i s = complete s (f s.block) r

section
variable {i : Instr} {s t : State} {f : Block → Block}

theorem Completes.block (hi : Completes i s.draws f) (h : exec i s = .next t) : t.block = f s.block := by
  obtain ⟨r, hr⟩ := hi s (exec_next h).1 rfl
  exact complete_block (hr.symm.trans h)

/-- Where the action's effect is idempotent, so is the action: the second one is executed with the draws of the first, which
stand in the state. -/
theorem Completes.again (hi : Completes i s.draws f) (hf : ∀ b, f (f b) = f b) (h : exec i s = .next t) (ht : Ready t) :
    ∃ u, exec i t = .next u ∧ u.block = t.block := by
  have hdraws : t.draws = s.draws := by rw [actionsChangeOnlyTheBlock i s t h]
  obtain ⟨r, hr⟩ := hi t ht hdraws
  refine ⟨_, hr, ?_⟩
  rw [hi.block h]
  exact hf s.block

end

/-! ### What the idempotent actions make of the block (20_memory.md R57) -/

section
variable (d : Draws)

theorem completes_encReset {e : Nat} (he : e < Config.nEnc) :
    Completes (.encReset e) d fun b => b.setEncoder ⟨e, he⟩ ((b.encoder ⟨e, he⟩).logicalReset d.cntOk) := by
  rintro s hs rfl
  rw [exec, execEncReset, actOnEncoder_of_lt hs he]
  exact ⟨_, rfl⟩

theorem completes_encPos {e : Nat} (he : e < Config.nEnc) : Completes (.encPos e) d id := by
  intro s hs _
  rw [exec, execEncPos, actOnEncoder_of_lt hs he]
  exact ⟨_, rfl⟩

theorem completes_inClr : Completes .inClr d Block.clearPressed := fun _ hs _ => ⟨_, act_of_running hs _⟩

theorem completes_pack {r : PackRecord} {q0 q1 : S32} (h0 : toFix r.vel0 = some q0) (h1 : toFix r.vel1 = some q1) :
    Completes (.pack r) d fun b => { b with frame := Memory.ofBytes (frameBytes r q0 q1) } := by
  intro s hs _
  refine ⟨none, (act_of_running hs _).trans ?_⟩
  rw [h0, h1]

theorem completes_pub : Completes .pub d fun b => { b with txbuf := if d.pubOk then b.frame else b.txbuf } := by
  rintro s hs rfl
  exact ⟨_, act_of_running hs _⟩

/-- The three read-only actions, where they do not fault, make nothing of the block. -/
theorem completes_readOnly {s t : State} {e n : Nat} {i : Instr} (hi : i = .encPos e ∨ i = .inSnap ∨ i = .i2cRd n)
    (h : exec i s = .next t) (ht : Ready t) : Completes i d id := by
  obtain rfl | rfl | rfl := hi
  · exact completes_encPos d (lt_of_encPos_ready h ht)
  · exact fun _ hs _ => ⟨_, act_of_running hs _⟩
  · exact fun _ hs _ => ⟨_, act_of_running hs _⟩

end

theorem Encoder.logicalReset_idem (ok : Bool) (c : Encoder) : (c.logicalReset ok).logicalReset ok = c.logicalReset ok := by
  cases ok <;> rfl

theorem Block.clearPressed_idem (b : Block) : b.clearPressed.clearPressed = b.clearPressed := by
  simp [Block.clearPressed, Function.comp_def]

/-- Settles O41: each of the three completes with the block as it is. -/
theorem readOnlyActionsFrame : Obligations.ReadOnlyActionsFrame := by
  intro s t e n i hi h ht
  exact (completes_readOnly s.draws hi h ht).block h

/-- Settles O50: the action does not fault the first time, so it completes both times, and its effect on the block is
idempotent. -/
theorem idempotentActions : Obligations.IdempotentActions := by
  intro s t e n r i hi h ht
  obtain rfl | rfl | rfl | rfl | hread := hi
  · refine (completes_encReset s.draws (lt_of_encReset_ready h ht)).again (fun b => ?_) h ht
    rw [Block.setEncoder_setEncoder, Block.encoder_setEncoder_same, Encoder.logicalReset_idem]
  · exact (completes_inClr s.draws).again Block.clearPressed_idem h ht
  · obtain ⟨q0, q1, h0, h1⟩ := toFix_of_pack_ready h ht
    exact (completes_pack s.draws h0 h1).again (fun _ => rfl) h ht
  · refine (completes_pub s.draws).again (fun b => ?_) h ht
    cases s.draws.pubOk <;> rfl
  · exact (completes_readOnly s.draws hread h ht).again (fun _ => rfl) h ht

end Sys2Proof.Machine

/-! PROOFS. A word is in at most one row of the opcode map, encoding and decoding undo each other, an action's outcome does not
depend on who presents it, the tasks' programs stage by stage, and the statements of 30_encoding.md. -/

namespace Sys2Proof.Machine

open Sys2Proof.Safety

/-! ### Matching rows (30_encoding.md R75, R76) -/

theorem mask_op_of_mem : ∀ row ∈ opcodeRows, fieldOp row.mask = BitVec.allOnes 4 := by decide

theorem row_eq_of_op_eq : ∀ row ∈ opcodeRows, ∀ row' ∈ opcodeRows,
    fieldOp row.pattern = fieldOp row'.pattern → row = row' := by decide

theorem Row.holds_iff {row : Row} {w : Word} : row.holds w = true ↔ w &&& row.mask = row.pattern := beq_iff_eq

/-- A row fixes `OP`, since its mask covers bits 31..28. -/
theorem fieldOp_of_holds {row : Row} {w : Word} (hrow : row ∈ opcodeRows) (h : row.holds w = true) :
    fieldOp w = fieldOp row.pattern := by
  have hmask : row.mask.extractLsb' 28 4 = BitVec.allOnes 4 := mask_op_of_mem row hrow
  rw [fieldOp, fieldOp, ← Row.holds_iff.1 h, BitVec.extractLsb'_and, hmask, BitVec.and_allOnes]

theorem row_unique {w : Word} {row row' : Row} (hrow : row ∈ opcodeRows) (hrow' : row' ∈ opcodeRows)
    (h : row.holds w = true) (h' : row'.holds w = true) : row = row' :=
  row_eq_of_op_eq row hrow row' hrow' ((fieldOp_of_holds hrow h).symm.trans (fieldOp_of_holds hrow' h'))

/-- The first row found is the row that holds, since no second one does. -/
theorem findRow_eq_some_iff {w : Word} {row : Row} :
    findRow w = some row ↔ row ∈ opcodeRows ∧ row.holds w = true := by
  constructor
  · exact fun h => ⟨List.mem_of_find?_eq_some h, List.find?_some (p := fun r : Row => r.holds w) h⟩
  · rintro ⟨hrow, h⟩
    obtain ⟨row', hfind⟩ : ∃ row', findRow w = some row' :=
      Option.isSome_iff_exists.1 (List.find?_isSome.2 ⟨row, hrow, h⟩)
    rw [hfind, row_unique hrow (List.mem_of_find?_eq_some hfind) h (List.find?_some (p := fun r : Row => r.holds w) hfind)]

theorem decode_of_holds {w : Word} {row : Row} (hrow : row ∈ opcodeRows) (h : row.holds w = true) (r : PackRecord) :
    decode w r = .ok (operandsOf w r row.op) := by
  rw [decode, findRow_eq_some_iff.2 ⟨hrow, h⟩]

theorem decode_ok_iff {w : Word} {r : PackRecord} {i : Instr} :
    decode w r = .ok i ↔ ∃ row ∈ opcodeRows, row.holds w = true ∧ i = operandsOf w r row.op := by
  constructor
  · intro h
    unfold decode at h
    split at h
    · next row hfind =>
      obtain ⟨hrow, hholds⟩ := findRow_eq_some_iff.1 hfind
      exact ⟨row, hrow, hholds, (Except.ok.inj h).symm⟩
    · cases h
  · rintro ⟨row, hrow, hholds, rfl⟩
    exact decode_of_holds hrow hholds r

theorem decode_error_iff {w : Word} {r : PackRecord} :
    (∃ why, decode w r = .error why) ↔ ∀ row ∈ opcodeRows, row.holds w = false := by
  constructor
  · rintro ⟨why, h⟩ row hrow
    refine Bool.eq_false_iff.2 fun hholds => ?_
    rw [decode_of_holds hrow hholds] at h
    cases h
  · intro h
    cases hdec : decode w r with
    | error why => exact ⟨why, rfl⟩
    | ok i =>
      obtain ⟨row, hrow, hholds, -⟩ := decode_ok_iff.1 hdec
      exact absurd hholds (Bool.eq_false_iff.1 (h row hrow))

/-- Settles O3: no two rows hold of a word, since their `OP` values differ, so the first row found is the one that holds. -/
theorem decodingFollowsTheOneMatchingRow : Obligations.DecodingFollowsTheOneMatchingRow := by
  refine ⟨fun w row hrow h => decode_of_holds hrow h, fun w row row' => row_unique,
    fun w h r => decode_error_iff.2 h, fun s a w r d hs h => ?_⟩
  obtain ⟨why, hdec⟩ := decode_error_iff.2 h
  exact present_of_decode_error hs hdec

/-! ### The fields of a word (30_encoding.md R71, R73) -/

@[simp] theorem fieldIdx_or (v w : Word) : fieldIdx (v ||| w) = fieldIdx v ||| fieldIdx w := by
  rw [fieldIdx, BitVec.extractLsb'_or, BitVec.toNat_or, fieldIdx, fieldIdx]

@[simp] theorem fieldPin_or (v w : Word) : fieldPin (v ||| w) = fieldPin v ||| fieldPin w := by
  rw [fieldPin, BitVec.extractLsb'_or, BitVec.toNat_or, fieldPin, fieldPin]

@[simp] theorem fieldImm_or (v w : Word) : fieldImm (v ||| w) = fieldImm v ||| fieldImm w := by
  rw [fieldImm, BitVec.extractLsb'_or, BitVec.toNat_or, fieldImm, fieldImm]

@[simp] theorem fieldIdx_ofNat (n : Nat) : fieldIdx (BitVec.ofNat 32 n) = n / 2 ^ 24 % 2 ^ 4 := by
  rw [fieldIdx, BitVec.extractLsb'_toNat, BitVec.toNat_ofNat, Nat.shiftRight_eq_div_pow]
  omega

@[simp] theorem fieldPin_ofNat (n : Nat) : fieldPin (BitVec.ofNat 32 n) = n / 2 ^ 16 % 2 ^ 8 := by
  rw [fieldPin, BitVec.extractLsb'_toNat, BitVec.toNat_ofNat, Nat.shiftRight_eq_div_pow]
  omega

@[simp] theorem fieldImm_ofNat (n : Nat) : fieldImm (BitVec.ofNat 32 n) = n % 2 ^ 16 := by
  rw [fieldImm, BitVec.extractLsb'_toNat, BitVec.toNat_ofNat, Nat.shiftRight_eq_div_pow]
  omega

@[simp] theorem fieldIdx_placeIdx (e : Nat) : fieldIdx (placeIdx e) = e % 2 ^ 4 := by
  rw [fieldIdx, placeIdx, BitVec.extractLsb'_toNat, BitVec.toNat_shiftLeft, BitVec.toNat_ofNat, Nat.shiftLeft_eq,
    Nat.shiftRight_eq_div_pow]
  omega

@[simp] theorem fieldImm_placeIdx (e : Nat) : fieldImm (placeIdx e) = 0 := by
  rw [fieldImm, placeIdx, BitVec.extractLsb'_toNat, BitVec.toNat_shiftLeft, BitVec.toNat_ofNat, Nat.shiftLeft_eq,
    Nat.shiftRight_eq_div_pow]
  omega

@[simp] theorem fieldPin_placePin (pin : Nat) : fieldPin (placePin pin) = pin % 2 ^ 8 := by
  rw [fieldPin, placePin, BitVec.extractLsb'_toNat, BitVec.toNat_shiftLeft, BitVec.toNat_ofNat, Nat.shiftLeft_eq,
    Nat.shiftRight_eq_div_pow]
  omega

@[simp] theorem fieldImm_placeImm (v : Nat) : fieldImm (placeImm v) = v % 2 ^ 16 := fieldImm_ofNat v

/-- An immediate that fits its field leaves the index alone. -/
theorem fieldIdx_placeImm {v : Nat} (h : v < 2 ^ 16) : fieldIdx (placeImm v) = 0 := by
  rw [placeImm, fieldIdx_ofNat]
  omega

/-! ### Decoding after encoding (30_encoding.md R80) -/

theorem encodesToRow (i : Instr) : Laws.EncodesToRow.Statement i := by
  cases i with
  | encReset e => exact Laws.EncodesToRow.encReset e
  | encPos e => exact Laws.EncodesToRow.encPos e
  | encVel e p => exact Laws.EncodesToRow.encVel e p
  | btnEdge pin => exact Laws.EncodesToRow.btnEdge pin
  | inSnap => exact Laws.EncodesToRow.inSnap
  | inClr => exact Laws.EncodesToRow.inClr
  | pack r => exact Laws.EncodesToRow.pack r
  | pub => exact Laws.EncodesToRow.pub
  | qin e a b => exact Laws.EncodesToRow.qin e a b
  | i2cRd n => exact Laws.EncodesToRow.i2cRd n

/-- The two levels of a `QIN` stand in bits 1 and 0 and leave the index alone. -/
theorem operandsOf_encode_qin {e : Nat} (he : e < 2 ^ 4) (a b : Bool) (r : PackRecord) :
    operandsOf (encode (.qin e a b)) r .qin = .qin e a b := by
  have ha : a.toNat * 2 < 2 ^ 16 := by cases a <;> decide
  have hb : b.toNat < 2 ^ 16 := by cases b <;> decide
  have hidx : fieldIdx (encode (.qin e a b)) = e := by
    simpa [encode, fieldIdx_placeImm ha, fieldIdx_placeImm hb] using he
  have hlevels : (encode (.qin e a b)).getLsbD 1 = a ∧ (encode (.qin e a b)).getLsbD 0 = b := by
    cases a <;> cases b <;> simp [encode, placeIdx, placeImm]
  rw [operandsOf, hidx, hlevels.1, hlevels.2]

/-- The operands read from the word of a well-formed action are its own. -/
theorem operandsOf_encode {i : Instr} (h : i.wellFormed = true) :
    operandsOf (encode i) (recordOf i) (Laws.EncodesToRow.rowOf i).op = i := by
  cases i with
  | encReset e =>
    have he : e < 2 ^ 4 := of_decide_eq_true h
    simpa [operandsOf, encode, Laws.EncodesToRow.rowOf] using he
  | encPos e =>
    have he : e < 2 ^ 4 := of_decide_eq_true h
    simpa [operandsOf, encode, Laws.EncodesToRow.rowOf] using he
  | encVel e p =>
    obtain ⟨he, hp⟩ : e < 2 ^ 4 ∧ p < 2 ^ 16 := by simpa [Instr.wellFormed] using h
    simpa [operandsOf, encode, Laws.EncodesToRow.rowOf, fieldIdx_placeImm hp] using And.intro he hp
  | btnEdge pin =>
    have hpin : pin < 2 ^ 8 := of_decide_eq_true h
    simpa [operandsOf, encode, Laws.EncodesToRow.rowOf] using hpin
  | inSnap => rfl
  | inClr => rfl
  | pack r => rfl
  | pub => rfl
  | qin e a b => exact operandsOf_encode_qin (of_decide_eq_true h) a b _
  | i2cRd n =>
    have hn : n < 2 ^ 16 := of_decide_eq_true h
    simpa [operandsOf, encode, Laws.EncodesToRow.rowOf] using hn

/-- Settles O1: the word is in the row of the action's operation, and the operands are read back from their fields. -/
theorem decodeOfEncodeIsTheAction : Obligations.DecodeOfEncodeIsTheAction := by
  intro i h
  obtain ⟨hrow, hholds⟩ := encodesToRow i h
  rw [decode_of_holds hrow hholds, operandsOf_encode h]

/-- Settles O5: each word evaluates to its action, the record on the operand channel left free. -/
theorem wordsOfTheTableDecode : Obligations.WordsOfTheTableDecode :=
  fun _ => ⟨rfl, rfl, rfl, rfl, rfl, rfl, rfl⟩

/-! ### Encoding after decoding (30_encoding.md R80) -/

/-- A field of a word, put back in its place. -/
theorem setWidth_extract_shiftLeft {m : Nat} (x : BitVec m) (s n : Nat) :
    (x.extractLsb' s n).setWidth m <<< s = x &&& (BitVec.allOnes n).setWidth m <<< s := by
  refine BitVec.eq_of_getLsbD_eq fun k hk => ?_
  by_cases hs : k < s
  · simp [hs]
  · have hk' : s + (k - s) = k := by omega
    have hlt : k - s < m := by omega
    simp only [BitVec.getLsbD_shiftLeft, BitVec.getLsbD_setWidth, BitVec.getLsbD_extractLsb', BitVec.getLsbD_and,
      BitVec.getLsbD_allOnes, hk, hk', hs, hlt]
    simp [Bool.and_comm]

theorem setWidth_extract_zero {m : Nat} (x : BitVec m) (n : Nat) :
    (x.extractLsb' 0 n).setWidth m = x &&& (BitVec.allOnes n).setWidth m := by
  simpa only [BitVec.shiftLeft_zero] using setWidth_extract_shiftLeft x 0 n

theorem placeIdx_fieldIdx (w : Word) : placeIdx (fieldIdx w) = w &&& 0x0F000000#32 := by
  rw [placeIdx, fieldIdx, BitVec.ofNat_toNat]
  exact setWidth_extract_shiftLeft w 24 4

theorem placePin_fieldPin (w : Word) : placePin (fieldPin w) = w &&& 0x00FF0000#32 := by
  rw [placePin, fieldPin, BitVec.ofNat_toNat]
  exact setWidth_extract_shiftLeft w 16 8

theorem placeImm_fieldImm (w : Word) : placeImm (fieldImm w) = w &&& 0x0000FFFF#32 := by
  rw [placeImm, fieldImm, BitVec.ofNat_toNat]
  exact setWidth_extract_zero w 16

/-- The two levels of a `QIN`, put back in their places. -/
theorem placeImm_levels (w : Word) :
    placeImm ((w.getLsbD 1).toNat * 2) ||| placeImm (w.getLsbD 0).toNat = w &&& 0x00000003#32 := by
  have hbits : ∀ x : BitVec 2,
      placeImm ((x.getLsbD 1).toNat * 2) ||| placeImm (x.getLsbD 0).toNat = x.setWidth 32 := by decide
  have hlow := hbits (w.extractLsb' 0 2)
  rw [setWidth_extract_zero] at hlow
  simpa [-BitVec.getLsbD_eq_getElem, BitVec.getLsbD_extractLsb'] using hlow

/-- The word of the action read from `w` in a row has the row's pattern, and the bits of `w` that the mask leaves out. -/
theorem encode_operandsOf {row : Row} (hrow : row ∈ opcodeRows) (w : Word) (r : PackRecord) :
    encode (operandsOf w r row.op) = row.pattern ||| (w &&& ~~~row.mask) := by
  revert row
  simp [opcodeRows, operandsOf, encode, placeIdx_fieldIdx, placePin_fieldPin, placeImm_fieldImm, BitVec.or_assoc,
    placeImm_levels, ← BitVec.and_or_distrib_left, -BitVec.getLsbD_eq_getElem]

/-- In a matching row the pattern is the bits under the mask. -/
theorem pattern_or_unmasked {row : Row} {w : Word} (h : row.holds w = true) :
    row.pattern ||| (w &&& ~~~row.mask) = w := by
  rw [← Row.holds_iff.1 h, ← BitVec.and_or_distrib_left, BitVec.or_not_self, BitVec.and_allOnes]

theorem operandsOf_wellFormed (w : Word) (r : PackRecord) (op : Op) : (operandsOf w r op).wellFormed = true := by
  cases op <;> simp [operandsOf, Instr.wellFormed, fieldIdx, fieldPin, fieldImm, Nat.mod_lt]

theorem eq_of_operandsOf_eq_pack {w : Word} {r r' : PackRecord} {op : Op} (h : operandsOf w r op = .pack r') :
    r' = r := by
  cases op <;> cases h
  rfl

/-- Settles O2: the row's pattern is the bits of the word under its mask, and the operands are the bits outside it. -/
theorem encodeOfDecodeIsTheWord : Obligations.EncodeOfDecodeIsTheWord := by
  intro w r i h
  obtain ⟨row, hrow, hholds, rfl⟩ := decode_ok_iff.1 h
  exact ⟨(encode_operandsOf hrow w r).trans (pattern_or_unmasked hholds), operandsOf_wellFormed w r row.op,
    fun _ => eq_of_operandsOf_eq_pack⟩

/-! ### The illegal words (30_encoding.md R72, R77) -/

/-- A word is its four fields. -/
theorem word_eq_iff {v w : Word} : v = w ↔
    v.extractLsb' 28 4 = w.extractLsb' 28 4 ∧ v.extractLsb' 24 4 = w.extractLsb' 24 4 ∧
      v.extractLsb' 16 8 = w.extractLsb' 16 8 ∧ v.extractLsb' 0 16 = w.extractLsb' 0 16 := by
  refine ⟨fun h => h ▸ ⟨rfl, rfl, rfl, rfl⟩, ?_⟩
  simp only [← BitVec.toNat_inj, BitVec.extractLsb'_toNat, Nat.shiftRight_eq_div_pow]
  omega

/-- A row holds of a word where it holds of each field. -/
theorem Row.holds_iff_fields {row : Row} {w : Word} : row.holds w = true ↔
    w.extractLsb' 28 4 &&& row.mask.extractLsb' 28 4 = row.pattern.extractLsb' 28 4 ∧
      w.extractLsb' 24 4 &&& row.mask.extractLsb' 24 4 = row.pattern.extractLsb' 24 4 ∧
      w.extractLsb' 16 8 &&& row.mask.extractLsb' 16 8 = row.pattern.extractLsb' 16 8 ∧
      w.extractLsb' 0 16 &&& row.mask.extractLsb' 0 16 = row.pattern.extractLsb' 0 16 := by
  rw [Row.holds_iff, word_eq_iff]
  simp only [BitVec.extractLsb'_and]

/-- The mask of the `QIN` row's immediate asks that bits 15..2 are zero. -/
theorem and_levelsMask_eq_zero_iff (x : BitVec 16) : x &&& 0xFFFC#16 = 0#16 ↔ x.extractLsb' 2 14 = 0#14 := by
  have hplace : (x.extractLsb' 2 14).setWidth 16 <<< 2 = x &&& 0xFFFC#16 := setWidth_extract_shiftLeft x 2 14
  constructor
  · intro h
    have hbits := congrArg (BitVec.extractLsb' 2 14) h
    rw [BitVec.extractLsb'_and] at hbits
    exact BitVec.and_allOnes.symm.trans hbits
  · intro h
    rw [← hplace, h]
    rfl

theorem and_fullMask4 (x : BitVec 4) : x &&& 15#4 = x := BitVec.and_allOnes

theorem and_fullMask8 (x : BitVec 8) : x &&& 255#8 = x := BitVec.and_allOnes

theorem and_fullMask16 (x : BitVec 16) : x &&& 65535#16 = x := BitVec.and_allOnes

theorem op_cases (op : BitVec 4) : op = 0#4 ∨ op = 1#4 ∨ op = 2#4 ∨ op = 3#4 ∨ op = 4#4 ∨ op = 5#4 ∨ op = 6#4 ∨
    op = 7#4 ∨ op = 8#4 ∨ op = 9#4 ∨ op = 10#4 ∨ op = 11#4 ∨ op = 12#4 ∨ op = 13#4 ∨ op = 14#4 ∨ op = 15#4 := by
  revert op
  decide

/-- Settles O4: read field by field, each operation code has at most one row, and that row asks that the must-be-zero fields
of its format are zero. -/
theorem illegalWordsAreTheReservedAndTheNonZero : Obligations.IllegalWordsAreTheReservedAndTheNonZero := by
  refine ⟨fun w r => ?_, fun r => ⟨.reservedOp, rfl⟩, fun s a w r d why hs => present_of_decode_error hs⟩
  simp only [decode_error_iff, opcodeRows, List.forall_mem_cons, ← Bool.not_eq_true, Row.holds_iff_fields,
    BitVec.reduceExtractLsb', and_fullMask4, and_fullMask8, and_fullMask16, and_levelsMask_eq_zero_iff]
  generalize w.extractLsb' 28 4 = op, w.extractLsb' 24 4 = idx, w.extractLsb' 16 8 = pin, w.extractLsb' 0 16 = imm
  obtain rfl | rfl | rfl | rfl | rfl | rfl | rfl | rfl | rfl | rfl | rfl | rfl | rfl | rfl | rfl | rfl := op_cases op <;>
    simp

/-! ### Who presents an action (30_encoding.md R78, 60_exceptions.md R191) -/

/-- The same outcome, with the action presented by `a` and its response returned to `a`. -/
def presentedBy (a : Agent) : Result → Result
  | .next t => .next { t with port := a, response := t.response.map fun d => { d with agent := a } }
  | .fault r => .fault r
  | .refused r => .refused r

section
variable (a : Agent) (s : State)

theorem complete_presentedBy (b : Block) (r : Option Response) :
    complete { s with port := a } b r = presentedBy a (complete s b r) := by
  cases r <;> rfl

theorem faults_presentedBy (c : FaultCode) (w : Word) :
    faults { s with port := a } c w = presentedBy a (faults s c w) := rfl

theorem act_presentedBy {r r' : Result} (h : r' = presentedBy a r) :
    act { s with port := a } r' = presentedBy a (act s r) := by
  rw [h, act, act]
  split <;> rfl

theorem actOnEncoder_presentedBy {e : Nat} {w : Word} {k k' : Fin Config.nEnc → Result}
    (h : ∀ i, k' i = presentedBy a (k i)) :
    actOnEncoder { s with port := a } e w k' = presentedBy a (actOnEncoder s e w k) := by
  refine act_presentedBy a s ?_
  split
  · exact h _
  · exact faults_presentedBy a s _ _

end

theorem exec_presentedBy (i : Instr) (s : State) (a : Agent) :
    exec i { s with port := a } = presentedBy a (exec i s) := by
  cases i with
  | encReset e =>
    unfold exec execEncReset
    exact actOnEncoder_presentedBy a s fun _ => complete_presentedBy a s _ _
  | encPos e =>
    unfold exec execEncPos
    exact actOnEncoder_presentedBy a s fun _ => complete_presentedBy a s _ _
  | encVel e p =>
    unfold exec execEncVel
    refine actOnEncoder_presentedBy a s fun _ => ?_
    dsimp only
    split
    · exact faults_presentedBy a s _ _
    · exact complete_presentedBy a s _ _
  | btnEdge pin => exact act_presentedBy a s (complete_presentedBy a s _ _)
  | inSnap => exact act_presentedBy a s (complete_presentedBy a s _ _)
  | inClr => exact act_presentedBy a s (complete_presentedBy a s _ _)
  | pack r =>
    refine act_presentedBy a s ?_
    split
    · exact complete_presentedBy a s _ _
    · exact faults_presentedBy a s _ _
  | pub => exact act_presentedBy a s (complete_presentedBy a s _ _)
  | qin e x y =>
    unfold exec execQin
    exact actOnEncoder_presentedBy a s fun _ => complete_presentedBy a s _ _
  | i2cRd n => exact act_presentedBy a s (complete_presentedBy a s _ _)

/-- Settles O48: each action's outcome is computed without the agent, up to the address of the response. -/
theorem effectIsTheSameFromEveryAgent : Obligations.EffectIsTheSameFromEveryAgent := by
  intro i s a
  rw [exec_presentedBy]
  cases exec i s <;> rfl

/-! ### Actions that complete and actions that fault, on a block -/

/-- On a block `b` and with the draws `d` the action `i` completes, makes `b'` of the block and responds `r`. -/
def Answers (i : Instr) (d : Draws) (b b' : Block) (r : Option Response) : Prop :=
  ∀ s, s.block = b → s.draws = d → exec i s = complete s b' r

/-- On a block `b` the action `i` faults with the code `c`, the word `w` recorded. -/
def FaultsWith (i : Instr) (b : Block) (c : FaultCode) (w : Word) : Prop :=
  ∀ s, s.block = b → exec i s = faults s c w

section
variable {b : Block} (hb : b.faultCode = 0#8)
include hb

theorem answers_encPos (d : Draws) (e : Fin Config.nEnc) :
    Answers (.encPos e) d b b (some (.position (readPosition d.cntOk (b.encoder e)))) := by
  rintro s rfl rfl
  rw [exec, execEncPos, actOnEncoder_of_lt hb e.isLt, rawReadOk_eq]

theorem answers_encVel (d : Draws) (e : Fin Config.nEnc) {p : BitVec 16} (hp : p ≠ 0) :
    Answers (.encVel e p.toNat) d b
      (b.setEncoder e { b.encoder e with last := readPosition d.cntOk (b.encoder e) })
      (some (.velocity (velOf (velDelta (b.encoder e) (readPosition d.cntOk (b.encoder e))) p.toNat))) := by
  rintro s rfl rfl
  rw [exec, execEncVel, actOnEncoder_of_lt hb e.isLt]
  exact if_neg fun h => hp (BitVec.toNat_eq.2 h)

theorem answers_inSnap (d : Draws) :
    Answers .inSnap d b b
      (some (.snapshot (buttonFlags b) (adcRead d.volOk d.vol) (adcRead d.sldOk d.sld))) := by
  rintro s rfl rfl
  exact act_of_running hb _

theorem answers_inClr (d : Draws) : Answers .inClr d b b.clearPressed none := by
  rintro s rfl rfl
  exact act_of_running hb _

theorem answers_pack (d : Draws) {r : PackRecord} {q0 q1 : S32} (h0 : toFix r.vel0 = some q0)
    (h1 : toFix r.vel1 = some q1) :
    Answers (.pack r) d b { b with frame := Memory.ofBytes (frameBytes r q0 q1) } none := by
  rintro s rfl rfl
  refine (act_of_running hb _).trans ?_
  rw [h0, h1]

theorem answers_pub_ok {d : Draws} (hd : d.pubOk = true) :
    Answers .pub d b { b with txbuf := b.frame } (some (.status .ok)) := by
  rintro s rfl rfl
  rw [exec, execPub, act_of_running hb, busWriteOk_eq, hd]
  rfl

theorem answers_pub_fail {d : Draws} (hd : d.pubOk = false) : Answers .pub d b b (some (.status .fail)) := by
  rintro s rfl rfl
  rw [exec, execPub, act_of_running hb, busWriteOk_eq, hd]
  rfl

theorem faultsWith_encVel (e : Fin Config.nEnc) {p : BitVec 16} (hp : p = 0) :
    FaultsWith (.encVel e p.toNat) b .zeroPeriod (encode (.encVel e 0)) := by
  rintro s rfl
  subst hp
  rw [exec, execEncVel, actOnEncoder_of_lt hb e.isLt]
  exact if_pos rfl

theorem faultsWith_pack {r : PackRecord} (h : toFix r.vel0 = none ∨ toFix r.vel1 = none) :
    FaultsWith (.pack r) b .velRange 0x70000000#32 := by
  rintro s rfl
  refine (act_of_running hb _).trans ?_
  split
  · next h0 h1 => simp [h0, h1] at h
  · rfl

end

/-! ### A task's step (30_encoding.md R81, R82) -/

theorem raise_not_running (c : FaultCode) (w : Word) (s : State) : (raise c w s).block.running = false :=
  Bool.eq_false_iff.2 fun h => raise_not_ready c w s ((running_iff _).1 h)

theorem Task.action_wellFormed (t : Task) : t.action.wellFormed = true := by
  have hp := t.p.isLt
  unfold Task.action
  split <;> simp [Instr.wellFormed, hp]

theorem present_action (t : Task) (a : Agent) (d : Draws) (s : State) :
    present a (encode t.action) (recordOf t.action) d s = exec t.action (latch a d s) :=
  present_of_decode_ok (decodeOfEncodeIsTheAction _ t.action_wellFormed) s

section
variable {t : Task}

theorem Task.action_of_pos0 (h : t.stage = .pos0) : t.action = .encPos 0 := by rw [Task.action, h]

theorem Task.action_of_vel0 (h : t.stage = .vel0) : t.action = .encVel 0 t.p.toNat := by rw [Task.action, h]

theorem Task.action_of_pos1 (h : t.stage = .pos1) : t.action = .encPos 1 := by rw [Task.action, h]

theorem Task.action_of_vel1 (h : t.stage = .vel1) : t.action = .encVel 1 t.p.toNat := by rw [Task.action, h]

theorem Task.action_of_snap (h : t.stage = .snap) : t.action = .inSnap := by rw [Task.action, h]

theorem Task.action_of_pack (h : t.stage = .pack) : t.action = .pack
    { pos0 := t.r0, vel0 := t.r1, pos1 := t.r2, vel1 := t.r3, ts := t.ts, flags := t.r4, vol := t.r5, sld := t.r6 } := by
  rw [Task.action, h]

theorem Task.action_of_pub (h : t.stage = .pub) : t.action = .pub := by rw [Task.action, h]

theorem Task.action_of_clr (h : t.stage = .clr) : t.action = .inClr := by rw [Task.action, h]

end

theorem Task.start_of_pos0 {t : Task} (h : t.stage = .pos0) (p : BitVec 16) (ts : BitVec 32) :
    t.start p ts = { t with p := p, ts := ts } := if_pos h

theorem Task.start_of_later {t : Task} {st : Stage} (h : t.stage = st) (p : BitVec 16) (ts : BitVec 32)
    (hst : st ≠ .pos0 := by decide) : t.start p ts = t := if_neg (h ▸ hst)

theorem present_of_answers {t : Task} {d : Draws} {b b' : Block} {r : Option Response} (h : Answers t.action d b b' r)
    {s : State} (hs : s.block = b) (a : Agent) :
    present a (encode t.action) (recordOf t.action) d s = complete (latch a d s) b' r :=
  (present_action t a d s).trans (h _ hs rfl)

theorem present_of_faultsWith {t : Task} {b : Block} {c : FaultCode} {w : Word} (h : FaultsWith t.action b c w)
    {s : State} (hs : s.block = b) (a : Agent) (d : Draws) :
    present a (encode t.action) (recordOf t.action) d s = faults (latch a d s) c w :=
  (present_action t a d s).trans (h _ hs)

section
variable {s : State} {p : BitVec 16} {ts : BitVec 32} {d : Draws} {rest : List Event} {u v : Task} {i : Instr}
  {b : Block} {r : Option Response} {c : FaultCode} {w : Word}

theorem step_taskB_of_answers (hsched : s.schedule = .taskB p ts d :: rest) (hu : s.taskB.start p ts = u)
    (hi : u.action = i) (h : Answers i d s.block b r) (hb : b.faultCode = 0#8) (hv : u.afterB r = v) :
    ∃ t, step s = .next t ∧ t.block = b ∧ t.taskB = v := by
  subst hi hv
  simp only [step_of_cons hsched, runEvent, stepTaskB, hu, present_of_answers h, complete, (running_iff _).2 hb, if_true]
  exact ⟨_, rfl, rfl, by cases r <;> rfl⟩

theorem step_taskB_of_faults (hs : Ready s) (hsched : s.schedule = .taskB p ts d :: rest)
    (hu : s.taskB.start p ts = u) (hi : u.action = i) (h : FaultsWith i s.block c w) :
    ∃ t, step s = .next t ∧ t.block = { s.block with faultCode := c.number, faultWord := w } ∧ t.taskB = u := by
  subst hi
  simp only [step_of_cons hsched, runEvent, stepTaskB, hu, present_of_faultsWith h, faults, raise_not_running]
  exact ⟨_, rfl, Block.enterFault_of_zero hs _ _, rfl⟩

theorem step_taskA_of_answers (hsched : s.schedule = .taskA p d :: rest) (hu : s.taskA.start p s.taskA.ts = u)
    (hi : u.action = i) (h : Answers i d s.block b r) (hb : b.faultCode = 0#8) (hv : u.afterA r = v) :
    ∃ t, step s = .next t ∧ t.block = b ∧ t.taskA = v := by
  subst hi hv
  simp only [step_of_cons hsched, runEvent, stepTaskA, hu, present_of_answers h, complete, (running_iff _).2 hb, if_true]
  exact ⟨_, rfl, rfl, by cases r <;> rfl⟩

theorem step_taskA_of_faults (hs : Ready s) (hsched : s.schedule = .taskA p d :: rest)
    (hu : s.taskA.start p s.taskA.ts = u) (hi : u.action = i) (h : FaultsWith i s.block c w) :
    ∃ t, step s = .next t ∧ t.block = { s.block with faultCode := c.number, faultWord := w } ∧ t.taskA = u := by
  subst hi
  simp only [step_of_cons hsched, runEvent, stepTaskA, hu, present_of_faultsWith h, faults, raise_not_running]
  exact ⟨_, rfl, Block.enterFault_of_zero hs _ _, rfl⟩

end

/-- Settles O51: each stage's action completes or faults on the block as it stands; where it completes, Task B keeps the
response and moves on. -/
theorem cycleBFollowsItsProgram : Obligations.CycleBFollowsItsProgram := by
  rintro s p ts d rest b hs hsched rfl c0 c1 pos
  refine ⟨fun h => ?_, fun h hp => ?_, fun h => ?_, fun h hp => ?_, fun h => ?_, fun h q1 q3 h1 h3 => ?_, fun h hd => ?_,
    fun h hd => ?_, fun h => ?_, fun h hp => ?_, fun h hp => ?_, fun h hv => ?_⟩
  · exact step_taskB_of_answers hsched (Task.start_of_pos0 h ..) (Task.action_of_pos0 h)
      (answers_encPos hs d 0) hs (by simp [Task.afterB, Task.keep, Stage.nextB, h, pos, c0])
  · exact step_taskB_of_answers hsched (Task.start_of_later h _ _) (Task.action_of_vel0 h)
      (answers_encVel hs d 0 hp) hs (by simp [Task.afterB, Task.keep, Stage.nextB, h, pos, c0])
  · exact step_taskB_of_answers hsched (Task.start_of_later h _ _) (Task.action_of_pos1 h)
      (answers_encPos hs d 1) hs (by simp [Task.afterB, Task.keep, Stage.nextB, h, pos, c1])
  · exact step_taskB_of_answers hsched (Task.start_of_later h _ _) (Task.action_of_vel1 h)
      (answers_encVel hs d 1 hp) hs (by simp [Task.afterB, Task.keep, Stage.nextB, h, pos, c1])
  · exact step_taskB_of_answers hsched (Task.start_of_later h _ _) (Task.action_of_snap h)
      (answers_inSnap hs d) hs (by simp [Task.afterB, Task.keep, Stage.nextB, h])
  · exact step_taskB_of_answers hsched (Task.start_of_later h _ _) (Task.action_of_pack h)
      (answers_pack hs d h1 h3) hs (by simp [Task.afterB, Task.keep, Stage.nextB, h])
  · exact step_taskB_of_answers hsched (Task.start_of_later h _ _) (Task.action_of_pub h)
      (answers_pub_ok hs hd) hs (by simp [Task.afterB, Task.keep, Stage.nextB, h])
  · exact step_taskB_of_answers hsched (Task.start_of_later h _ _) (Task.action_of_pub h)
      (answers_pub_fail hs hd) hs (by simp [Task.afterB, Task.keep, Stage.nextB, h])
  · exact step_taskB_of_answers hsched (Task.start_of_later h _ _) (Task.action_of_clr h)
      (answers_inClr hs d) hs (by simp [Task.afterB, Task.keep, Stage.nextB, h])
  · exact step_taskB_of_faults hs hsched (Task.start_of_later h _ _) (Task.action_of_vel0 h) (faultsWith_encVel hs 0 hp)
  · exact step_taskB_of_faults hs hsched (Task.start_of_later h _ _) (Task.action_of_vel1 h) (faultsWith_encVel hs 1 hp)
  · exact step_taskB_of_faults hs hsched (Task.start_of_later h _ _) (Task.action_of_pack h) (faultsWith_pack hs hv)

/-- Settles O52: as for Task B, on Task A's four stages. -/
theorem cycleAFollowsItsProgram : Obligations.CycleAFollowsItsProgram := by
  rintro s p d rest a hs hsched rfl c0 c1 pos
  refine ⟨fun h => ?_, fun h hp => ?_, fun h => ?_, fun h hp => ?_, fun h hp => ?_, fun h hp => ?_⟩
  · exact step_taskA_of_answers hsched (Task.start_of_pos0 h ..) (Task.action_of_pos0 h)
      (answers_encPos hs d 0) hs (by simp [Task.afterA, Task.keep, Stage.nextA, h, pos, c0])
  · exact step_taskA_of_answers hsched (Task.start_of_later h _ _) (Task.action_of_vel0 h)
      (answers_encVel hs d 0 hp) hs (by simp [Task.afterA, Task.keep, Stage.nextA, h, pos, c0])
  · exact step_taskA_of_answers hsched (Task.start_of_later h _ _) (Task.action_of_pos1 h)
      (answers_encPos hs d 1) hs (by simp [Task.afterA, Task.keep, Stage.nextA, h, pos, c1])
  · exact step_taskA_of_answers hsched (Task.start_of_later h _ _) (Task.action_of_vel1 h)
      (answers_encVel hs d 1 hp) hs (by simp [Task.afterA, Task.keep, Stage.nextA, h, pos, c1])
  · exact step_taskA_of_faults hs hsched (Task.start_of_later h _ _) (Task.action_of_vel0 h) (faultsWith_encVel hs 0 hp)
  · exact step_taskA_of_faults hs hsched (Task.start_of_later h _ _) (Task.action_of_vel1 h) (faultsWith_encVel hs 1 hp)

/-! ### `BTN.PRESS` (30_encoding.md R83) -/

theorem btnPressWord_of_pinMap {p : Params} {pin : Nat} {b : Fin Config.nBtn} (h : pinMap p pin = some b) :
    btnPressWord p b = some (encode (.btnEdge pin)) := by
  obtain ⟨x, hx, rfl⟩ := Option.map_eq_some_iff.1 (pinMap_some h)
  simp only [btnPressWord, hx, if_pos h]

/-- Settles O54: the pin that maps to a button is the one the table has for it. -/
theorem btnPressIsTheEdgeOfItsPin : Obligations.BtnPressIsTheEdgeOfItsPin := by
  refine fun p b => ⟨fun pin => btnPressWord_of_pinMap, fun hnone pin h => ?_, fun h => ?_⟩
  · rw [btnPressWord_of_pinMap h] at hnone
    cases hnone
  · unfold btnPressWord
    split
    · rfl
    · exact if_neg (h _)

end Sys2Proof.Machine

/-! PROOFS. Each encoder action's outcome on a running block, the direction of a quadrature step, the position after a logical
reset, and the statements of 40_encoder.md with the frame of the encoder actions. -/

namespace Sys2Proof.Machine

open Sys2Proof.Safety

/-! ### The preamble of every encoder action (40_encoder.md R100) -/

theorem exec_eq_actOnEncoder {e p : Nat} {a b : Bool} {i : Instr}
    (hi : i = .encReset e ∨ i = .encPos e ∨ i = .encVel e p ∨ i = .qin e a b) (s : State) :
    ∃ k, exec i s = actOnEncoder s e (encode i) k := by
  obtain rfl | rfl | rfl | rfl := hi
  · exact ⟨_, by rw [exec, execEncReset]⟩
  · exact ⟨_, by rw [exec, execEncPos]⟩
  · exact ⟨_, by rw [exec, execEncVel]⟩
  · exact ⟨_, by rw [exec, execQin]⟩

theorem faults_of_ready {s : State} (hs : Ready s) (c : FaultCode) (w : Word) :
    faults s c w = .next (faulted s c.number w) := by
  rw [faults, raise_eq_faulted hs]

/-- Settles O11: each of the four actions is its preamble and what it does on an encoder. -/
theorem encoderActionsCheckTheirIndex : Obligations.EncoderActionsCheckTheirIndex := by
  intro s e p a b i hi
  obtain ⟨k, hk⟩ := exec_eq_actOnEncoder hi s
  refine ⟨fun hs => ?_, fun hs he => ?_⟩
  · rw [hk, actOnEncoder_of_halted hs]
  · rw [hk, actOnEncoder_of_ge hs (Nat.not_lt.2 he), faults_of_ready hs, FaultCode.number]

/-! ### What an encoder action does on an encoder (40_encoder.md R101, R105-R107) -/

section
variable {s : State} (hs : Ready s) {e : Nat} (he : e < Config.nEnc)
include hs

theorem exec_encReset_of_lt : exec (.encReset e) s =
    complete s (s.block.setEncoder ⟨e, he⟩ ((s.block.encoder ⟨e, he⟩).logicalReset s.draws.cntOk)) none := by
  rw [exec, execEncReset, actOnEncoder_of_lt hs he, rawReadOk_eq]

theorem exec_encPos_of_lt : exec (.encPos e) s =
    complete s s.block (some (.position (readPosition s.draws.cntOk (s.block.encoder ⟨e, he⟩)))) :=
  answers_encPos hs s.draws ⟨e, he⟩ s rfl rfl

theorem exec_encVel_of_lt {p : Nat} (hp : p ≠ 0) : exec (.encVel e p) s =
    complete s (s.block.setEncoder ⟨e, he⟩
        { s.block.encoder ⟨e, he⟩ with last := readPosition s.draws.cntOk (s.block.encoder ⟨e, he⟩) })
      (some (.velocity (velOf
        (velDelta (s.block.encoder ⟨e, he⟩) (readPosition s.draws.cntOk (s.block.encoder ⟨e, he⟩))) p))) := by
  rw [exec, execEncVel, actOnEncoder_of_lt hs he]
  exact if_neg hp

include he in
theorem exec_encVel_zero : exec (.encVel e 0) s = faults s .zeroPeriod (encode (.encVel e 0)) := by
  rw [exec, execEncVel, actOnEncoder_of_lt hs he]
  exact if_pos rfl

theorem exec_qin_of_lt (a b : Bool) : exec (.qin e a b) s =
    complete s (s.block.setEncoder ⟨e, he⟩
      ((s.block.encoder ⟨e, he⟩).phase s.params.limitPolicy (levels a b))) none := by
  rw [exec, execQin, actOnEncoder_of_lt hs he]

end

/-! ### The direction of a quadrature step (40_encoder.md R103) -/

theorem qtab_eq_one_iff : ∀ old new : BitVec 2, qtab old new = 1 ↔ new = forward old := by decide

theorem qtab_eq_neg_one_iff : ∀ old new : BitVec 2, qtab old new = -1 ↔ old = forward new := by decide

/-- Settles O16: the sixteen entries are read off the table, and its cycle is checked at each pair of levels. -/
theorem quadratureTable : Obligations.QuadratureTable :=
  ⟨by decide, by decide, by decide, by decide, qtab_eq_one_iff, qtab_eq_neg_one_iff⟩

/-- The table as the direction along the forward cycle. -/
theorem qtab_eq_ite (old new : BitVec 2) :
    qtab old new = if new = forward old then 1 else if old = forward new then -1 else 0 := by
  split
  · next hf => exact (qtab_eq_one_iff old new).2 hf
  · next hf =>
    split
    · next hb => exact (qtab_eq_neg_one_iff old new).2 hb
    · next hb =>
      rw [← qtab_eq_one_iff] at hf
      rw [← qtab_eq_neg_one_iff] at hb
      exact (qtab_cases old new).resolve_right (not_or.2 ⟨hf, hb⟩)

/-- Settles O14: the phase change of the model, with the table's entry read as a direction. -/
theorem qinCountsOneStep : Obligations.QinCountsOneStep := by
  refine fun s e a b hs => ⟨fun he => ?_,
    (encoderActionsCheckTheirIndex s e 0 a b _ (.inr (.inr (.inr rfl)))).2 hs⟩
  rw [exec_qin_of_lt hs he]
  simp only [Encoder.phase, qtab_eq_ite]
  rfl

/-! ### The limit function (40_encoder.md R102) -/

/-- Settles O15: each policy's clause is its arm, and the ranges are the invariant's lemmas. -/
theorem limitPolicies : Obligations.LimitPolicies := by
  refine ⟨fun z => rfl, fun z => ?_, fun z => rfl, fun policy old z => limit_within policy, fun z => ?_⟩
  · simp only [limit, Config.cntHigh, Config.cntLow]
    omega
  · have := limit_zero_strict z
    omega

/-! ### Reset, position and velocity (40_encoder.md R105-R108) -/

/-- Settles O17: a failed read puts the encoder back as it was, and within the limits the negated count is a value of s32. -/
theorem encResetZeroesThePosition : Obligations.EncResetZeroesThePosition := by
  refine fun s e hs => ⟨fun he => ⟨?_, fun hlow hhigh => wrap32_toInt (by omega) (by omega)⟩,
    (encoderActionsCheckTheirIndex s e 0 false false _ (.inl rfl)).2 hs⟩
  rw [exec_encReset_of_lt hs he]
  cases s.draws.cntOk with
  | true => rfl
  | false => rw [Encoder.logicalReset, if_neg Bool.false_ne_true, Block.setEncoder_self]; rfl

/-- Settles O18: the response is the position read, and the block stays. -/
theorem encPosRespondsThePosition : Obligations.EncPosRespondsThePosition :=
  fun s e hs => ⟨fun he => exec_encPos_of_lt hs he,
    (encoderActionsCheckTheirIndex s e 0 false false _ (.inr (.inl rfl))).2 hs⟩

theorem velOf_eq (d : Int) (p : Nat) : velOf d p = (d : Rat) * 1000 / (p : Rat) := by
  rw [velOf, Rat.mkRat_eq_div, Int.cast_mul, Int.cast_ofNat]

theorem velDelta_within {policy : LimitPolicy} {c : Encoder} (h : EncoderInv policy c) (ok : Bool) :
    -40000 ≤ velDelta c (readPosition ok c) ∧ velDelta c (readPosition ok c) ≤ 40000 := by
  have hpos := readPosition_within h ok
  have hlow := h.lastLow
  have hhigh := h.lastHigh
  unfold velDelta
  omega

/-- Settles O19: the velocity of the model is the rational quotient, and the bound is that of position and baseline. -/
theorem encVelRespondsTheVelocity : Obligations.EncVelRespondsTheVelocity := by
  refine fun s e p hs => ⟨fun he => ⟨fun hp => ?_, ?_, fun hinv => ?_⟩,
    (encoderActionsCheckTheirIndex s e p false false _ (.inr (.inr (.inl rfl)))).2 hs⟩
  · rw [exec_encVel_of_lt hs he hp, velOf_eq]
    rfl
  · rintro rfl
    exact (exec_encVel_zero hs he).trans (faults_of_ready hs _ _)
  · exact velDelta_within (hinv.block.encoders ⟨e, he⟩) s.draws.cntOk

/-! ### The position after a logical reset (40_encoder.md R109) -/

/-- Against an offset that negates `z`, the position is the count's movement from `z`, whether or not the negation wraps. -/
theorem position_of_offset {c : Encoder} {z : Int} (h : c.offset = wrap32 (-z)) :
    c.position = wrap32 (c.raw.toInt - z) := by
  simp only [Encoder.position, wrap32, h, Int.sub_eq_add_neg, BitVec.ofInt_add, BitVec.ofInt_toInt]

section
variable {s : State} (hs : Ready s) (hok : s.draws.cntOk = true) {e : Nat} (he : e < Config.nEnc)
include hs hok

/-- A successful read responds the count's movement from `z`, where the offset negates `z`. -/
theorem encPos_response_of_offset {z : Int} (h : (s.block.encoder ⟨e, he⟩).offset = wrap32 (-z)) :
    ∃ t, exec (.encPos e) s = .next t ∧
      t.response = some ⟨s.port, .position (wrap32 ((s.block.encoder ⟨e, he⟩).raw.toInt - z))⟩ := by
  rw [exec_encPos_of_lt hs he, hok, readPosition_ok, position_of_offset h]
  exact ⟨_, rfl, rfl⟩

/-- What a successful reset leaves for the next action (40_encoder.md R105). -/
theorem encReset_next_of_ok : ∃ t, exec (.encReset e) s = .next t ∧ Ready t ∧ t.draws = s.draws ∧ t.port = s.port ∧
    t.block.encoder ⟨e, he⟩ = { s.block.encoder ⟨e, he⟩ with
      offset := wrap32 (-(s.block.encoder ⟨e, he⟩).raw.toInt), last := 0 } := by
  rw [exec_encReset_of_lt hs he, hok]
  exact ⟨_, rfl, hs, rfl, rfl, Block.encoder_setEncoder_same ..⟩

end

theorem Encoder.phase_offset (policy : LimitPolicy) (new : BitVec 2) (c : Encoder) :
    (c.phase policy new).offset = c.offset := rfl

/-- What a phase change leaves for the next action; the offset stays (40_encoder.md R101). -/
theorem qin_next {s : State} (hs : Ready s) {e : Nat} (he : e < Config.nEnc) (a b : Bool) :
    ∃ t, exec (.qin e a b) s = .next t ∧ Ready t ∧ t.draws = s.draws ∧ t.port = s.port ∧
      (t.block.encoder ⟨e, he⟩).offset = (s.block.encoder ⟨e, he⟩).offset := by
  rw [exec_qin_of_lt hs he]
  exact ⟨_, rfl, hs, rfl, rfl, by rw [Block.encoder_setEncoder_same, Encoder.phase_offset]⟩

/-- Settles O21: the reset's offset negates the count, and a phase change leaves the offset. -/
theorem positionIsZeroAfterReset : Obligations.PositionIsZeroAfterReset := by
  intro s e he hs hok
  obtain ⟨t, hreset, ht, htdraws, htport, htenc⟩ := encReset_next_of_ok hs hok he
  have htok : t.draws.cntOk = true := htdraws ▸ hok
  have htoffset : (t.block.encoder ⟨e, he⟩).offset = wrap32 (-(s.block.encoder ⟨e, he⟩).raw.toInt) := by rw [htenc]
  refine ⟨t, hreset, ht, ?_, fun a b => ?_⟩
  · obtain ⟨u, hpos, hresponse⟩ := encPos_response_of_offset ht htok he htoffset
    rw [htport, htenc, Int.sub_self] at hresponse
    exact ⟨u, hpos, hresponse⟩
  · obtain ⟨u, hqin, hu, hudraws, huport, huoffset⟩ := qin_next ht he a b
    obtain ⟨v, hpos, hresponse⟩ := encPos_response_of_offset hu (hudraws ▸ htok) he (huoffset.trans htoffset)
    rw [huport, htport] at hresponse
    exact ⟨u, v, hqin, hpos, hresponse⟩

/-! ### What the encoder actions leave unchanged (10_state.md R38) -/

/-- `ENC.RESET`, `ENC.VEL` and `QIN`, where they do not fault, write their own encoder alone. -/
theorem exec_setEncoder_of_ready {s t : State} {e p : Nat} {a b : Bool} {i : Instr} (he : e < Config.nEnc)
    (hi : i = .encReset e ∨ i = .encVel e p ∨ i = .qin e a b) (h : exec i s = .next t) (ht : Ready t) :
    ∃ v, t.block = s.block.setEncoder ⟨e, he⟩ v := by
  have hs : Ready s := (exec_next h).1
  obtain rfl | rfl | rfl := hi
  · exact ⟨_, complete_block ((exec_encReset_of_lt hs he).symm.trans h)⟩
  · by_cases hp : p = 0
    · subst hp
      exact absurd (faults_next ((exec_encVel_zero hs he).symm.trans h) ▸ ht) (raise_not_ready _ _ _)
    · exact ⟨_, complete_block ((exec_encVel_of_lt hs he hp).symm.trans h)⟩
  · exact ⟨_, complete_block ((exec_qin_of_lt hs he a b).symm.trans h)⟩

/-- Settles O40: the action replaces one encoder, and what it can make of that encoder is its write. -/
theorem encoderActionsFrame : Obligations.EncoderActionsFrame := by
  intro s t e p a b i he hi h ht
  have w := (exec_blockWrite h).encoder ⟨e, he⟩
  obtain ⟨v, hblock⟩ := exec_setEncoder_of_ready he hi h ht
  have hqin (hq : ∀ a' b', i ≠ .qin e a' b') : ∀ e' a' b', i ≠ .qin e' a' b' := by
    obtain rfl | rfl | rfl := hi
    · simp
    · simp
    · exact absurd rfl (hq a b)
  have hreset (hr : i ≠ .encReset e) : ∀ e', i ≠ .encReset e' := by
    obtain rfl | rfl | rfl := hi
    · exact absurd rfl hr
    · simp
    · simp
  refine ⟨fun f hf => ?_, fun k => ?_, ?_, fun x => ?_, fun x => ?_, ?_, ?_, fun hq => w.raw_qstate (hqin hq),
    fun hr => w.offset (hreset hr), fun hq => w.last (by simp [hq]) (by simp [hq])⟩
  · rw [hblock, Block.encoder_setEncoder_other _ _ hf]
  · rw [hblock, Block.setEncoder_button]
  · rw [hblock, Block.setEncoder_tbUs]
  · rw [hblock, Block.setEncoder_frame]
  · rw [hblock, Block.setEncoder_txbuf]
  · rw [hblock, Block.setEncoder_faultCode]
  · rw [hblock, Block.setEncoder_faultWord]

end Sys2Proof.Machine

/-! PROOFS. What an edge makes of its pin's button, the window it starts, the bits of the flags byte, and the statements of
41_input.md with the frame of the button actions. -/

namespace Sys2Proof.Machine

open Sys2Proof.Safety

/-! ### The block after an edge (41_input.md R131) -/

theorem edgeAccepted_iff (now : Micros) (v : Button) : edgeAccepted now v = true ↔ 50000 < elapsedUs now v.lastPressUs :=
  decide_eq_true_iff

section
variable {p : Params} {pin : Nat} {b : Block}

theorem Block.pinEdge_of_unmapped (h : pinMap p pin = none) : b.pinEdge p pin = b := by
  simp only [Block.pinEdge, h]

variable {k : Fin Config.nBtn}

theorem Block.pinEdge_of_mapped (h : pinMap p pin = some k) :
    b.pinEdge p pin = b.setButton k ((b.button k).edge b.tbUs) := by
  simp only [Block.pinEdge, h]

theorem Block.pinEdge_of_accepted (h : pinMap p pin = some k) (he : 50000 < elapsedUs b.tbUs (b.button k).lastPressUs) :
    b.pinEdge p pin = b.setButton k { pressed := true, lastPressUs := b.tbUs } := by
  rw [Block.pinEdge_of_mapped h, Button.edge_of_accepted ((edgeAccepted_iff _ _).2 he)]

theorem Block.pinEdge_of_discarded (h : pinMap p pin = some k) (he : elapsedUs b.tbUs (b.button k).lastPressUs ≤ 50000) :
    b.pinEdge p pin = b := by
  have hd : edgeAccepted b.tbUs (b.button k) = false :=
    Bool.eq_false_iff.2 fun ha => Nat.not_lt.2 he ((edgeAccepted_iff _ _).1 ha)
  rw [Block.pinEdge_of_mapped h, Button.edge_of_discarded hd, Block.setButton_self]

theorem Block.pinEdge_button_other (h : pinMap p pin ≠ some k) : (b.pinEdge p pin).button k = b.button k := by
  cases hpin : pinMap p pin with
  | none => rw [Block.pinEdge_of_unmapped hpin]
  | some j =>
    have hkj : k ≠ j := fun hkj => h (hkj ▸ hpin)
    rw [Block.pinEdge_of_mapped hpin, Block.button_setButton_other _ _ hkj]

theorem Block.pinEdge_eq_withButtons (p : Params) (pin : Nat) (b : Block) :
    ∃ bs, b.pinEdge p pin = { b with buttons := bs } := by
  cases hpin : pinMap p pin with
  | none => exact ⟨b.buttons, Block.pinEdge_of_unmapped hpin⟩
  | some k => exact ⟨_, Block.pinEdge_of_mapped hpin⟩

end

/-! ### Each input action on a running block (41_input.md R131, R134) -/

section
variable {s : State} (hs : Ready s)
include hs

theorem exec_btnEdge (pin : Nat) : exec (.btnEdge pin) s = complete s (s.block.pinEdge s.params pin) none :=
  act_of_running hs _

theorem exec_inClr : exec .inClr s = complete s s.block.clearPressed none := answers_inClr hs s.draws s rfl rfl

end

/-- Settles O23: the model's elapsed time is the stated difference, and the edge is accepted or discarded by it. -/
theorem btnEdgeDebounces : Obligations.BtnEdgeDebounces := by
  intro s pin hs
  refine ⟨fun hpin => ?_, fun b hpin => ?_⟩
  · rw [exec_btnEdge hs, Block.pinEdge_of_unmapped hpin]
    rfl
  · rw [← elapsedUs_eq]
    refine ⟨fun he => ?_, fun he => ?_⟩
    · rw [exec_btnEdge hs, Block.pinEdge_of_accepted hpin he]
      rfl
    · rw [exec_btnEdge hs, Block.pinEdge_of_discarded hpin he]
      rfl

/-- Settles O28: the flags are cleared button by button, and the action writes the buttons alone. -/
theorem inClrClearsEveryFlag : Obligations.InClrClearsEveryFlag :=
  fun s hs => ⟨_, exec_inClr hs, s.block.clearPressed_button, rfl⟩

/-! ### The window (41_input.md R135) -/

/-- Before the time base comes round, the time since `last` is what has been ticked. -/
theorem elapsedUs_add (last : Micros) {k : Nat} (hk : k < 2 ^ 64) : elapsedUs (last + BitVec.ofNat 64 k) last = k := by
  rw [elapsedUs, add_sub_cancel_left, BitVec.toNat_ofNat, Nat.mod_eq_of_lt hk]

/-- The pin `pin` is that of button `b`, whose last accepted edge was `k` microseconds ago, at `last`, on a running block. -/
structure SinceEdge (pin : Nat) (b : Fin Config.nBtn) (last : Micros) (k : Nat) (s : State) : Prop where
  ready : Ready s
  mapped : pinMap s.params pin = some b
  lastPress : (s.block.button b).lastPressUs = last
  now : s.block.tbUs = last + BitVec.ofNat 64 k

section
variable {pin : Nat} {b : Fin Config.nBtn} {last : Micros} {k : Nat} {s : State} (h : SinceEdge pin b last k s)
include h

theorem SinceEdge.elapsed (hk : k < 2 ^ 64) : elapsedUs s.block.tbUs (s.block.button b).lastPressUs = k := by
  rw [h.now, h.lastPress, elapsedUs_add last hk]

/-- An edge inside the window is discarded. -/
theorem SinceEdge.discards (hk : k ≤ 50000) : exec (.btnEdge pin) s = complete s s.block none := by
  have he := h.elapsed (by omega)
  rw [exec_btnEdge h.ready, Block.pinEdge_of_discarded h.mapped (he ▸ hk)]

/-- An edge past the window is accepted. -/
theorem SinceEdge.accepts (hk : 50000 < k) (hk' : k < 2 ^ 64) : exec (.btnEdge pin) s =
    complete s (s.block.setButton b { pressed := true, lastPressUs := s.block.tbUs }) none := by
  have he := h.elapsed hk'
  rw [exec_btnEdge h.ready, Block.pinEdge_of_accepted h.mapped (he ▸ hk)]

/-- `IN.CLR` clears the button's flag and leaves its window (41_input.md R134). -/
theorem SinceEdge.inClr : ∃ u, exec .inClr s = .next u ∧ SinceEdge pin b last k u ∧
    u.block.button b = { pressed := false, lastPressUs := last } := by
  have hbutton : s.block.clearPressed.button b = { pressed := false, lastPressUs := last } := by
    rw [Block.clearPressed_button, h.lastPress]
  exact ⟨_, exec_inClr h.ready, ⟨h.ready, h.mapped, congrArg Button.lastPressUs hbutton, h.now⟩, hbutton⟩

end

/-- An accepted edge starts the window at the present time. -/
theorem sinceEdge_of_accepted {s t : State} {pin : Nat} {b : Fin Config.nBtn} (hs : Ready s)
    (hpin : pinMap s.params pin = some b) (he : 50000 < elapsedUs s.block.tbUs (s.block.button b).lastPressUs)
    (h : exec (.btnEdge pin) s = .next t) (k : Nat) : SinceEdge pin b s.block.tbUs k (tick k t) := by
  rw [exec_btnEdge hs, Block.pinEdge_of_accepted hpin he] at h
  obtain rfl := complete_next h
  refine ⟨hs, hpin, ?_, rfl⟩
  rw [tick_button, Block.button_setButton_same]

/-- Settles O25: the accepted edge starts the window, which `IN.CLR` leaves, and the next edge is discarded or accepted by
the time that has been ticked. -/
theorem windowRunsFromTheAcceptedEdge : Obligations.WindowRunsFromTheAcceptedEdge := by
  intro s t pin b k hs hpin he h hk
  rw [← elapsedUs_eq] at he
  have hsince := sinceEdge_of_accepted hs hpin he h k
  obtain ⟨u, hclr, hu, hbutton⟩ := hsince.inClr
  refine ⟨fun hin => ⟨_, hsince.discards hin, rfl⟩, fun hin => ?_, fun hout => ?_⟩
  · exact ⟨u, _, hclr, hu.discards hin, rfl, hbutton⟩
  · refine ⟨u, _, hclr, congrArg Button.pressed hbutton, hu.accepts hout hk, ?_⟩
    rw [Block.button_setButton_same, hu.now]

/-! ### The snapshot (41_input.md R132, R133) -/

/-- The flags with the bit of button `i` set where it is pressed: one step of `buttonFlags`. -/
def Block.addFlag (b : Block) (flags : BitVec 8) (i : Fin Config.nBtn) : BitVec 8 :=
  if (b.button i).pressed then flags ||| (1#8 <<< i.val) else flags

section
variable (b : Block) {j : Nat}

theorem buttonFlags_eq_foldl : buttonFlags b = (List.finRange Config.nBtn).foldl b.addFlag 0#8 := rfl

theorem Block.getLsbD_addFlag (hj : j < 8) (flags : BitVec 8) (i : Fin Config.nBtn) :
    (b.addFlag flags i).getLsbD j = true ↔ flags.getLsbD j = true ∨ (i.val = j ∧ (b.button i).pressed = true) := by
  unfold Block.addFlag
  split
  · next hp =>
    have hbit : (1#8 <<< i.val).getLsbD j = true ↔ i.val = j := by
      simp only [BitVec.getLsbD_shiftLeft, BitVec.getLsbD_one, Bool.and_eq_true, Bool.not_eq_true', decide_eq_true_eq,
        decide_eq_false_iff_not]
      omega
    rw [BitVec.getLsbD_or, Bool.or_eq_true, hbit]
    simp [hp]
  · next hp => simp [hp]

theorem Block.getLsbD_foldl_addFlag (hj : j < 8) (l : List (Fin Config.nBtn)) (flags : BitVec 8) :
    (l.foldl b.addFlag flags).getLsbD j = true ↔
      flags.getLsbD j = true ∨ ∃ i ∈ l, i.val = j ∧ (b.button i).pressed = true := by
  induction l generalizing flags with
  | nil => simp
  | cons i l ih => rw [List.foldl_cons, ih, b.getLsbD_addFlag hj, or_assoc, List.exists_mem_cons_iff]

theorem getLsbD_buttonFlags (hj : j < 8) :
    (buttonFlags b).getLsbD j = true ↔ ∃ i : Fin Config.nBtn, i.val = j ∧ (b.button i).pressed = true := by
  simp [buttonFlags_eq_foldl, b.getLsbD_foldl_addFlag hj]

theorem getLsbD_buttonFlags_button (i : Fin Config.nBtn) : (buttonFlags b).getLsbD i.val = (b.button i).pressed := by
  rw [Bool.eq_iff_iff, getLsbD_buttonFlags b (i.isLt.trans (by decide))]
  exact ⟨fun ⟨k, hk, hp⟩ => Fin.ext hk ▸ hp, fun hp => ⟨i, rfl, hp⟩⟩

/-- No button has a bit past the last button's. -/
theorem getLsbD_buttonFlags_of_ge (hj : j < 8) (h : Config.nBtn ≤ j) : (buttonFlags b).getLsbD j = false := by
  refine Bool.eq_false_iff.2 fun hbit => ?_
  obtain ⟨i, hi, -⟩ := (getLsbD_buttonFlags b hj).1 hbit
  omega

end

theorem adcRead_toNat (ok : Bool) (v : BitVec 12) : (adcRead ok v).toNat = if ok then v.toNat else 0 := by
  cases ok with
  | true => rw [adcRead_ok, BitVec.toNat_setWidth_of_le (by decide), if_pos rfl]
  | false => rfl

theorem adcRead_le (ok : Bool) (v : BitVec 12) : (adcRead ok v).toNat ≤ 4095 := by
  rw [adcRead_toNat]
  split
  · exact Nat.le_of_lt_succ v.isLt
  · exact Nat.zero_le _

/-- Settles O27: the response is the flags byte, read bit by bit, and the two samples. -/
theorem inSnapRespondsTheSnapshot : Obligations.InSnapRespondsTheSnapshot :=
  fun s hs => ⟨_, _, _, answers_inSnap hs s.draws s rfl rfl, getLsbD_buttonFlags_button s.block,
    getLsbD_buttonFlags_of_ge _ (by decide) (by decide), getLsbD_buttonFlags_of_ge _ (by decide) (by decide),
    adcRead_toNat _ _, adcRead_le _ _, adcRead_toNat _ _, adcRead_le _ _⟩

/-! ### What the button actions leave unchanged (10_state.md R38) -/

theorem btnEdge_block {s t : State} {pin : Nat} (h : exec (.btnEdge pin) s = .next t) :
    t.block = s.block.pinEdge s.params pin :=
  complete_block (act_next h).2

/-- `BTN.EDGE` and `IN.CLR` write the buttons alone. -/
theorem exec_eq_withButtons {s t : State} {pin : Nat} {i : Instr} (hi : i = .btnEdge pin ∨ i = .inClr)
    (h : exec i s = .next t) : ∃ bs, t.block = { s.block with buttons := bs } := by
  obtain rfl | rfl := hi
  · exact btnEdge_block h ▸ Block.pinEdge_eq_withButtons ..
  · exact ⟨_, complete_block (act_next h).2⟩

/-- Settles O42: both actions write the buttons alone, and what each can make of a button is its write. -/
theorem buttonActionsFrame : Obligations.ButtonActionsFrame := by
  intro s t pin i hi h
  have w := exec_blockWrite h
  obtain ⟨bs, hblock⟩ := exec_eq_withButtons hi h
  refine ⟨fun e => ?_, w.tbUs, fun x => ?_, fun x => ?_, ?_, ?_, ?_, ?_⟩
  · rw [hblock]; rfl
  · rw [hblock]
  · rw [hblock]
  · rw [hblock]
  · rw [hblock]
  · rintro rfl
    refine ⟨fun k hk => ?_, fun k => (w.button k).stays_pressed (by simp)⟩
    rw [btnEdge_block h, Block.pinEdge_button_other hk]
  · rintro rfl k
    exact (w.button k).lastPressUs (by simp)

end Sys2Proof.Machine

/-! PROOFS. The fixed-point value as the integer part of a rational, the fields of a frame and their unpacking, each telemetry
action's outcome on a running block, and the statements of 42_telemetry.md with the frame of the buffer actions. -/

namespace Sys2Proof.Machine

open Sys2Proof.Safety

/-! ### The fixed-point conversion (42_telemetry.md R152) -/

/-- The integer part of a rational: it is rounded toward zero. -/
def ratTrunc (v : Rat) : Int := if 0 ≤ v then ⌊v⌋ else ⌈v⌉

/-- `Int.tdiv` is the integer part of the quotient. -/
theorem ratTrunc_div (n : Int) (d : Nat) : ratTrunc ((n : Rat) / (d : Rat)) = Int.tdiv n d := by
  unfold ratTrunc
  obtain rfl | hd := Nat.eq_zero_or_pos d
  · simp
  have hsign : 0 ≤ (n : Rat) / (d : Rat) ↔ 0 ≤ n := by
    rw [le_div_iff₀ (Nat.cast_pos.2 hd), zero_mul, Int.cast_nonneg_iff]
  split
  · next h => rw [Rat.floor_intCast_div_natCast, Int.tdiv_eq_ediv_of_nonneg (hsign.1 h)]
  · next h =>
    have hn : 0 ≤ -n := by
      rw [hsign] at h
      omega
    rw [Rat.ceil_intCast_div_natCast, ← Int.tdiv_eq_ediv_of_nonneg hn, Int.neg_tdiv, Int.neg_neg]

theorem fixedPoint_eq_ratTrunc (v : Vel) : fixedPoint v = ratTrunc (v * 100) := by
  have hv : v * 100 = ((v.num * 100 : Int) : Rat) / (v.den : Rat) := by
    rw [Int.cast_mul, Int.cast_ofNat, mul_div_right_comm, Rat.num_div_den]
  rw [hv, ratTrunc_div, fixedPoint]

theorem fixedPoint_velOf (d : Int) (p : Nat) : fixedPoint (velOf d p) = Int.tdiv (100000 * d) p := by
  have hv : velOf d p * 100 = ((100000 * d : Int) : Rat) / (p : Rat) := by
    rw [velOf_eq]
    push_cast
    ring
  rw [fixedPoint_eq_ratTrunc, hv, ratTrunc_div]

section
variable {v : Vel}

theorem toFix_of_inRange (hlow : -(2 ^ 31) ≤ fixedPoint v) (hhigh : fixedPoint v ≤ 2 ^ 31 - 1) :
    toFix v = some (wrap32 (fixedPoint v)) :=
  if_neg (by omega)

theorem toFix_ne_none (hlow : -(2 ^ 31) ≤ fixedPoint v) (hhigh : fixedPoint v ≤ 2 ^ 31 - 1) : toFix v ≠ none := by
  rw [toFix_of_inRange hlow hhigh]
  exact Option.some_ne_none _

theorem toFix_eq_none_iff : toFix v = none ↔ fixedPoint v < -(2 ^ 31) ∨ 2 ^ 31 - 1 < fixedPoint v := by
  simp only [toFix, ite_eq_left_iff, reduceCtorEq, imp_false, not_not]

theorem toInt_of_toFix {q : S32} (h : toFix v = some q) : q.toInt = fixedPoint v := by
  have hrange : ¬ (fixedPoint v < -(2 ^ 31) ∨ 2 ^ 31 - 1 < fixedPoint v) := by
    rw [← toFix_eq_none_iff, h]
    exact Option.some_ne_none q
  have hlow : -(2 ^ 31) ≤ fixedPoint v := by omega
  have hhigh : fixedPoint v ≤ 2 ^ 31 - 1 := by omega
  rw [toFix_of_inRange hlow hhigh] at h
  rw [← Option.some_inj.1 h, wrap32_toInt hlow hhigh]

end

/-- Settles O30: the value converted is the integer part of `v * 100`. -/
theorem toFixTruncatesTowardZero : Obligations.ToFixTruncatesTowardZero := by
  intro v
  have hz : fixedPoint v = if 0 ≤ v then ⌊v * 100⌋ else ⌈v * 100⌉ := by
    have hsign : 0 ≤ v * 100 ↔ 0 ≤ v := mul_nonneg_iff_of_pos_right (by norm_num)
    simp only [fixedPoint_eq_ratTrunc, ratTrunc, hsign]
  dsimp only
  rw [← hz]
  exact ⟨fun ⟨hlow, hhigh⟩ => ⟨_, toFix_of_inRange hlow hhigh, wrap32_toInt hlow hhigh⟩, toFix_eq_none_iff.2⟩

/-! ### Bytes of a value (20_memory.md R51, 42_telemetry.md R154) -/

theorem leBytes_getElem? {w n k : Nat} (v : BitVec w) (hk : k < n) : (leBytes n v)[k]? = some (v.extractLsb' (8 * k) 8) := by
  simp [leBytes, hk]

theorem leBytes_succ {w : Nat} (n : Nat) (v : BitVec w) :
    leBytes (n + 1) v = v.extractLsb' 0 8 :: leBytes n (v >>> 8) := by
  rw [leBytes, List.range_succ_eq_map, List.map_cons, List.map_map, leBytes]
  refine congrArg _ (List.map_congr_left fun k _ => BitVec.eq_of_getLsbD_eq fun i _ => ?_)
  simp [Nat.mul_succ, Nat.add_comm, Nat.add_left_comm]

/-- Assembling the `n` lowest bytes of a value gives its lowest `8 * n` bits. -/
theorem leValue_leBytes {w : Nat} (n : Nat) (v : BitVec w) : leValue (leBytes n v) = v.toNat % 2 ^ (8 * n) := by
  induction n generalizing v with
  | zero => simp [leBytes, leValue, Nat.mod_one]
  | succ n ih =>
    rw [leBytes_succ, leValue, ih, BitVec.toNat_ushiftRight, BitVec.extractLsb'_toNat, Nat.shiftRight_zero,
      Nat.shiftRight_eq_div_pow, Nat.mul_succ, Nat.add_comm (8 * n), Nat.pow_add, Nat.mod_mul]

/-! ### The fields of a frame (42_telemetry.md R153) -/

/-- From address `a` on, `f` holds the `n` lowest bytes of `v`. -/
def HoldsField {w : Nat} (f : List Byte) (a n : Nat) (v : BitVec w) : Prop := (f.drop a).take n = leBytes n v

theorem HoldsField.getElem? {w n k : Nat} {f : List Byte} {a : Nat} {v : BitVec w} (h : HoldsField f a n v) (hk : k < n) :
    f[a + k]? = some (v.extractLsb' (8 * k) 8) := by
  rw [← leBytes_getElem? v hk, ← h, List.getElem?_take_of_lt hk, List.getElem?_drop]

theorem HoldsField.fieldOf {n : Nat} {f : List Byte} {a : Nat} {v : BitVec (8 * n)} (h : HoldsField f a n v) :
    fieldOf f a n = v.toNat := by
  rw [Machine.fieldOf, h, leValue_leBytes, Nat.mod_eq_of_lt v.isLt]

/-- The eight fields of a frame, each in its place. -/
structure HoldsRecord (f : List Byte) (r : PackRecord) (q0 q1 : S32) : Prop where
  pos0 : HoldsField f 0 4 r.pos0
  q0 : HoldsField f 4 4 q0
  pos1 : HoldsField f 8 4 r.pos1
  q1 : HoldsField f 12 4 q1
  ts : HoldsField f 16 4 r.ts
  flags : HoldsField f 20 1 r.flags
  vol : HoldsField f 21 2 r.vol
  sld : HoldsField f 23 2 r.sld

theorem frameBytes_holdsRecord (r : PackRecord) (q0 q1 : S32) : HoldsRecord (frameBytes r q0 q1) r q0 q1 := by
  constructor <;>
    simp [HoldsField, frameBytes, List.drop_append, leBytes_length, List.drop_of_length_le, List.take_of_length_le]

/-- The master unpacks the integers the frame was made of (42_telemetry.md R154). -/
theorem unpack_frameBytes (r : PackRecord) (q0 q1 : S32) : unpack (frameBytes r q0 q1) =
    { pos0 := r.pos0.toInt, q0 := q0.toInt, pos1 := r.pos1.toInt, q1 := q1.toInt, ts := r.ts.toNat,
      flags := r.flags.toNat, vol := r.vol.toNat, sld := r.sld.toNat } := by
  have h := frameBytes_holdsRecord r q0 q1
  rw [unpack, h.pos0.fieldOf, h.q0.fieldOf, h.pos1.fieldOf, h.q1.fieldOf, h.ts.fieldOf, h.flags.fieldOf, h.vol.fieldOf,
    h.sld.fieldOf]
  simp only [BitVec.ofNat_toNat, BitVec.setWidth_eq]

/-! ### Writing a frame field by field (20_memory.md R56) -/

theorem Memory.store_append (m : Memory) (a : Nat) (bs cs : List Byte) :
    m.store a (bs ++ cs) = (m.store a bs).store (a + bs.length) cs := by
  induction bs generalizing m a with
  | nil => rfl
  | cons b bs ih =>
    rw [List.cons_append, Memory.store, Memory.store, ih, List.length_cons, Nat.add_right_comm, Nat.add_assoc]

/-- Writing a whole frame leaves nothing of what the buffer held. -/
theorem Memory.store_frame {m : Memory} (hm : m.wf = true) {bs : List Byte} (hl : bs.length = Config.frameSize) :
    m.store 0 bs = Memory.ofBytes bs := by
  refine Memory.eq_of_byte_eq (Memory.store_wf hm 0 bs) (Memory.ofBytes_wf bs) fun a ha => ?_
  rw [Memory.byte_ofBytes bs ha (hl ▸ ha), Memory.byte_store hm, dif_pos ⟨Nat.zero_le a, hl ▸ ha, ha⟩]
  rfl

/-- Settles O33: each field holds its value's bytes, and the eight writes one after the other store the whole frame. -/
theorem frameBytesLayout : Obligations.FrameBytesLayout := by
  refine ⟨fun r q0 q1 => ?_, fun m r q0 q1 hm => ?_⟩
  · obtain ⟨hpos0, hq0, hpos1, hq1, hts, hflags, hvol, hsld⟩ := frameBytes_holdsRecord r q0 q1
    refine ⟨frameBytes_length r q0 q1, fun _ => hpos0.getElem?, fun _ => hq0.getElem?, fun _ => hpos1.getElem?,
      fun _ => hq1.getElem?, fun _ => hts.getElem?, ?_, fun _ => hvol.getElem?, fun _ => hsld.getElem?⟩
    simpa using hflags.getElem? Nat.one_pos
  · rw [← Memory.store_frame hm (frameBytes_length r q0 q1)]
    simp only [frameBytes, Memory.store_append, List.length_append, leBytes_length, memWrite, Nat.reduceAdd]

/-! ### Each telemetry action on a running block (42_telemetry.md R151-R157) -/

section
variable {s : State} (hs : Ready s)
include hs

theorem exec_pack {r : PackRecord} {q0 q1 : S32} (h0 : toFix r.vel0 = some q0) (h1 : toFix r.vel1 = some q1) :
    exec (.pack r) s = complete s { s.block with frame := Memory.ofBytes (frameBytes r q0 q1) } none :=
  answers_pack hs s.draws h0 h1 s rfl rfl

theorem exec_pub_ok (hd : s.draws.pubOk = true) :
    exec .pub s = complete s { s.block with txbuf := s.block.frame } (some (.status .ok)) :=
  answers_pub_ok hs hd s rfl rfl

theorem exec_i2cRd (n : Nat) :
    exec (.i2cRd n) s = complete s s.block (some (.bytes (masterBytes s.block.txbuf s.moves n))) :=
  act_of_running hs _

end

/-- Settles O29: a buffer made of the frame's bytes reads back each of them, whatever stood there. -/
theorem packReplacesTheFrame : Obligations.PackReplacesTheFrame :=
  fun s r hs => ⟨fun q0 q1 h0 h1 => ⟨_, exec_pack hs h0 h1, Memory.read?_ofBytes (frameBytes_length r q0 q1)⟩,
    fun h => (faultsWith_pack hs h s rfl).trans (faults_of_ready hs _ _)⟩

/-- Where both velocities have a fixed-point value, these are the integers the frame unpacks to. -/
theorem pack_unpack_velocities {s : State} {r : PackRecord} (hs : Ready s) (h0 : toFix r.vel0 ≠ none)
    (h1 : toFix r.vel1 ≠ none) :
    ∃ t, exec (.pack r) s = .next t ∧ (unpack t.block.frame.bytes).q0 = fixedPoint r.vel0 ∧
      (unpack t.block.frame.bytes).q1 = fixedPoint r.vel1 := by
  obtain ⟨q0, h0⟩ := Option.ne_none_iff_exists'.1 h0
  obtain ⟨q1, h1⟩ := Option.ne_none_iff_exists'.1 h1
  refine ⟨_, exec_pack hs h0 h1, ?_⟩
  rw [Memory.bytes_ofBytes (frameBytes_length r q0 q1), unpack_frameBytes]
  exact ⟨toInt_of_toFix h0, toInt_of_toFix h1⟩

/-- Settles O31: the velocity's fixed-point value is the integer part of the quotient, and `PACK` writes that value. -/
theorem velocityPacksAsTruncatedQuotient : Obligations.VelocityPacksAsTruncatedQuotient := by
  intro d p _
  dsimp only
  rw [← fixedPoint_velOf]
  refine ⟨rfl, fun q => toInt_of_toFix, toFix_eq_none_iff, fun s r hs hv hlow hhigh h1 => ?_,
    fun s r hs hv hlow hhigh h0 => ?_⟩
  · rw [← hv] at hlow hhigh ⊢
    obtain ⟨t, ht, hq0, -⟩ := pack_unpack_velocities hs (toFix_ne_none hlow hhigh) h1
    exact ⟨t, ht, hq0⟩
  · rw [← hv] at hlow hhigh ⊢
    obtain ⟨t, ht, -, hq1⟩ := pack_unpack_velocities hs h0 (toFix_ne_none hlow hhigh)
    exact ⟨t, ht, hq1⟩

/-- Settles O34: the draw decides which of the two outcomes it is. -/
theorem pubCopiesTheFrameOrFails : Obligations.PubCopiesTheFrameOrFails := by
  intro s hs
  cases hd : s.draws.pubOk with
  | true => exact exec_pub_ok hs hd
  | false => exact answers_pub_fail hs hd s rfl rfl

/-! ### A master read (42_telemetry.md R157) -/

theorem masterBytes_length (tx : Memory) (moves n : Nat) : (masterBytes tx moves n).length = n := by
  simp [masterBytes]

theorem masterBytes_getElem? {n k : Nat} (hn : k < n) (hk : k < Config.frameSize) (tx : Memory) (moves : Nat) :
    (masterBytes tx moves n)[k]? = tx.read? k := by
  simp [masterBytes, hn, Memory.read?_of_lt hk]

/-- A read of 25 bytes is the buffer. -/
theorem masterBytes_frameSize (tx : Memory) (moves : Nat) : masterBytes tx moves Config.frameSize = tx.bytes :=
  List.map_congr_left fun k hk => by rw [Memory.read?_of_lt (List.mem_range.1 hk), Option.getD_some]

/-- Settles O35: the bytes are read from the bus buffer as far as it reaches, and the block stays. -/
theorem i2cRdRespondsTheBuffer : Obligations.I2cRdRespondsTheBuffer :=
  fun _ n hs => ⟨_, exec_i2cRd hs n, masterBytes_length _ _ n, fun _ hn hk => masterBytes_getElem? hn hk _ _⟩

/-- Settles O36: the bus buffer the master reads is the frame as packed, and its fields are unpacked one by one. -/
theorem masterUnpacksWhatWasPacked : Obligations.MasterUnpacksWhatWasPacked := by
  intro s r q0 q1 hs hd h0 h1
  have hcode : s.block.faultCode = 0#8 := hs
  refine ⟨_, _, _, _, exec_pack hs h0 h1, exec_pub_ok ?pubReady ?pubOk, exec_i2cRd ?readReady 25, rfl,
    masterBytes_length _ _ _, ?unpack⟩
  case pubReady => exact hcode
  case pubOk => exact hd
  case readReady => exact hcode
  case unpack => rw [masterBytes_frameSize, Memory.bytes_ofBytes (frameBytes_length r q0 q1), unpack_frameBytes]

/-- Settles O9: the step leaves the schedule and does nothing else. -/
theorem masterWriteChangesNothing : Obligations.MasterWriteChangesNothing :=
  fun s _ h => ⟨advance s, by rw [step, h, runEvent], advance_block s⟩

/-! ### What the buffer actions leave unchanged (10_state.md R38) -/

theorem pack_block {s t : State} {r : PackRecord} (h : exec (.pack r) s = .next t) (ht : Ready t) :
    ∃ m, t.block = { s.block with frame := m } := by
  obtain ⟨q0, q1, h0, h1⟩ := toFix_of_pack_ready h ht
  exact ⟨_, (completes_pack s.draws h0 h1).block h⟩

/-- Settles O43: each of the two replaces one buffer and writes nothing else of the block. -/
theorem bufferActionsFrame : Obligations.BufferActionsFrame := by
  intro s t r i hi h ht
  obtain rfl | rfl := hi
  · obtain ⟨m, hblock⟩ := pack_block h ht
    rw [hblock]
    exact ⟨fun _ => rfl, fun _ => rfl, rfl, rfl, rfl, fun _ _ => rfl, nofun⟩
  · rw [(completes_pub s.draws).block h]
    exact ⟨fun _ => rfl, fun _ => rfl, rfl, rfl, rfl, nofun, fun _ _ => rfl⟩

end Sys2Proof.Machine

/-! PROOFS. What a running block makes of an action and which draws it uses, what a faulted block makes of a step, and the
statements of 60_exceptions.md. -/

namespace Sys2Proof.Machine

open Sys2Proof.Safety

/-! ### The outcome of an action on a running block (60_exceptions.md R181, R194) -/

/-- The draws `d` and `d'` agree where 60_exceptions.md R194 lists a draw for the action `i`. -/
structure ListedDrawsAgree (i : Instr) (d d' : Draws) : Prop where
  counter : (∃ e, i = .encReset e ∨ i = .encPos e ∨ ∃ p, i = .encVel e p) → d.cntOk = d'.cntOk
  samples : i = .inSnap → d.volOk = d'.volOk ∧ d.sldOk = d'.sldOk ∧
    (d.volOk = true → d.vol = d'.vol) ∧ (d.sldOk = true → d.sld = d'.sld)
  publish : i = .pub → d.pubOk = d'.pubOk

theorem ListedDrawsAgree.refl (i : Instr) (d : Draws) : ListedDrawsAgree i d d :=
  ⟨fun _ => rfl, fun _ => ⟨rfl, rfl, fun _ => rfl, fun _ => rfl⟩, fun _ => rfl⟩

/-- The sample matters only where its read succeeds (41_input.md R133). -/
theorem adcRead_congr {ok ok' : Bool} {v v' : BitVec 12} (hok : ok = ok') (hv : ok = true → v = v') :
    adcRead ok v = adcRead ok' v' := by
  subst hok
  cases ok with
  | false => rfl
  | true => rw [hv rfl]

/-- On the state `s` the action `i` faults, with a code that is not that of an illegal word, or it completes and records no
fault; and with the draws `d` in place of those latched its outcome is the same. -/
inductive ActionOutcome (i : Instr) (s : State) (d : Draws) : Prop
  | completes {b : Block} {r : Option Response} (h : exec i s = complete s b r)
      (h' : exec i { s with draws := d } = complete { s with draws := d } b r) (hb : b.faultCode = 0#8)
  | faults {c : FaultCode} (h : FaultsWith i s.block c (encode i)) (hc : c ≠ .illegalAction)

theorem Block.pinEdge_faultCode (p : Params) (pin : Nat) (b : Block) : (b.pinEdge p pin).faultCode = b.faultCode := by
  obtain ⟨bs, h⟩ := b.pinEdge_eq_withButtons p pin
  rw [h]

section
variable {s : State} (hs : Ready s) {d : Draws}
include hs

/-- An encoder action faults where its index names no encoder (40_encoder.md R100). -/
theorem outcome_of_encoder {e p : Nat} {a b : Bool} {i : Instr}
    (hi : i = .encReset e ∨ i = .encPos e ∨ i = .encVel e p ∨ i = .qin e a b)
    (h : e < Config.nEnc → ActionOutcome i s d) : ActionOutcome i s d := by
  by_cases he : e < Config.nEnc
  · exact h he
  · refine .faults (c := .badIndex) (fun s' hs' => ?_) nofun
    obtain ⟨k, hk⟩ := exec_eq_actOnEncoder hi s'
    rw [hk, actOnEncoder_of_ge ((congrArg Block.faultCode hs').trans hs) he]

theorem outcome_encVel {e : Nat} (he : e < Config.nEnc) (p : Nat) (hd : d.cntOk = s.draws.cntOk) :
    ActionOutcome (.encVel e p) s d := by
  by_cases hp : p = 0
  · subst hp
    refine .faults (c := .zeroPeriod) (fun s' hs' => ?_) nofun
    exact exec_encVel_zero ((congrArg Block.faultCode hs').trans hs) he
  · refine .completes (exec_encVel_of_lt hs he hp) ?_ hs
    rw [exec_encVel_of_lt (s := { s with draws := d }) hs he hp, hd]

theorem outcome_pack (r : PackRecord) : ActionOutcome (.pack r) s d := by
  by_cases h : toFix r.vel0 = none ∨ toFix r.vel1 = none
  · exact .faults (faultsWith_pack hs h) nofun
  · obtain ⟨h0, h1⟩ := not_or.1 h
    obtain ⟨q0, h0⟩ := Option.ne_none_iff_exists'.1 h0
    obtain ⟨q1, h1⟩ := Option.ne_none_iff_exists'.1 h1
    exact .completes (exec_pack hs h0 h1) (exec_pack (s := { s with draws := d }) hs h0 h1) hs

/-- Everything a running block makes of an action, and the draws on which that depends. -/
theorem exec_outcome {i : Instr} (hd : ListedDrawsAgree i d s.draws) : ActionOutcome i s d := by
  have hs' : Ready { s with draws := d } := hs
  cases i with
  | encReset e =>
    refine outcome_of_encoder hs (p := 0) (a := false) (b := false) (.inl rfl) fun he => ?_
    refine .completes (exec_encReset_of_lt hs he) ?_ hs
    rw [exec_encReset_of_lt hs' he, hd.counter ⟨e, .inl rfl⟩]
  | encPos e =>
    refine outcome_of_encoder hs (p := 0) (a := false) (b := false) (.inr (.inl rfl)) fun he => ?_
    refine .completes (exec_encPos_of_lt hs he) ?_ hs
    rw [exec_encPos_of_lt hs' he, hd.counter ⟨e, .inr (.inl rfl)⟩]
  | encVel e p =>
    refine outcome_of_encoder hs (a := false) (b := false) (.inr (.inr (.inl rfl))) fun he => ?_
    exact outcome_encVel hs he p (hd.counter ⟨e, .inr (.inr ⟨p, rfl⟩)⟩)
  | btnEdge pin =>
    have hcode := (s.block.pinEdge_faultCode s.params pin).trans hs
    exact .completes (exec_btnEdge hs pin) (exec_btnEdge hs' pin) hcode
  | inSnap =>
    obtain ⟨hvolOk, hsldOk, hvol, hsld⟩ := hd.samples rfl
    refine .completes (answers_inSnap hs s.draws s rfl rfl) ?_ hs
    rw [answers_inSnap hs d { s with draws := d } rfl rfl, adcRead_congr hvolOk hvol, adcRead_congr hsldOk hsld]
  | inClr => exact .completes (exec_inClr hs) (exec_inClr hs') hs
  | pack r => exact outcome_pack hs r
  | pub =>
    have hpub : d.pubOk = s.draws.pubOk := hd.publish rfl
    cases hok : s.draws.pubOk with
    | true => exact .completes (exec_pub_ok hs hok) (exec_pub_ok hs' (hpub.trans hok)) hs
    | false =>
      exact .completes (answers_pub_fail hs hok s rfl rfl) (answers_pub_fail hs (hpub.trans hok) _ rfl rfl) hs
  | qin e x y =>
    refine outcome_of_encoder hs (p := 0) (.inr (.inr (.inr rfl))) fun he => ?_
    exact .completes (exec_qin_of_lt hs he x y) (exec_qin_of_lt hs' he x y) hs
  | i2cRd n => exact .completes (exec_i2cRd hs n) (exec_i2cRd hs' n) hs

end

/-! ### A faulting action is precise (60_exceptions.md R181, R183) -/

theorem FaultCode.number_of_ne_illegalAction {c : FaultCode} (h : c ≠ .illegalAction) :
    c.number = 2 ∨ c.number = 3 ∨ c.number = 4 := by
  cases c with
  | illegalAction => exact absurd rfl h
  | badIndex => exact .inl rfl
  | zeroPeriod => exact .inr (.inl rfl)
  | velRange => exact .inr (.inr rfl)

theorem FaultCode.number_within (c : FaultCode) : 1 ≤ c.number.toNat ∧ c.number.toNat ≤ 4 :=
  ⟨by cases c <;> decide, c.number_le⟩

theorem exec_eq_faulted {i : Instr} {s t : State} (h : exec i s = .next t) (ht : t.block.faultCode ≠ 0) :
    ∃ c : FaultCode, c ≠ .illegalAction ∧ t = faulted s c.number (encode i) := by
  have hs : Ready s := (exec_next h).1
  cases exec_outcome hs (.refl i s.draws) with
  | completes hi _ hb => exact absurd ((complete_block (hi.symm.trans h)).symm ▸ hb) ht
  | faults hi hc => exact ⟨_, hc, (faults_next ((hi s rfl).symm.trans h)).trans (raise_eq_faulted hs _ _)⟩

/-- Settles O13: a running block completes the action or enters the fault with the action's word, which is the word
presented. -/
theorem faultsArePrecise : Obligations.FaultsArePrecise := by
  refine ⟨fun i s t h ht => ?_, fun s t a w r d h ht => ?_⟩
  · obtain ⟨c, hc, rfl⟩ := exec_eq_faulted h ht
    exact ⟨rfl, c.number_of_ne_illegalAction hc⟩
  · obtain ⟨i, hi, h⟩ | ⟨hs, rfl⟩ := present_next h
    · obtain ⟨c, -, rfl⟩ := exec_eq_faulted h ht
      rw [(encodeOfDecodeIsTheWord w r i hi).1]
      exact ⟨rfl, c.number_within⟩
    · have hl : Ready (latch a d s) := hs
      rw [raise_eq_faulted hl]
      exact ⟨rfl, FaultCode.illegalAction.number_within⟩

/-- Settles O12: each clause is one action's fault on a running block. -/
theorem faultPriority : Obligations.FaultPriority := by
  refine fun s hs => ⟨fun e p he => ?_, fun e he => ?_, fun r h => ?_, fun a w r d why h => ?_⟩
  · exact (encoderActionsCheckTheirIndex s e p false false _ (.inr (.inr (.inl rfl)))).2 hs he
  · exact (exec_encVel_zero hs he).trans (faults_of_ready hs _ _)
  · exact (faultsWith_pack hs h s rfl).trans (faults_of_ready hs _ _)
  · exact present_of_decode_error hs h

/-! ### A faulted block (60_exceptions.md R182) -/

section
variable {s : State} (hs : s.block.faultCode ≠ 0)
include hs

theorem exec_of_halted (i : Instr) : exec i s = .fault .halted := by
  have encoderAction {e p : Nat} {a b : Bool}
      (hi : i = .encReset e ∨ i = .encPos e ∨ i = .encVel e p ∨ i = .qin e a b) : exec i s = .fault .halted :=
    (encoderActionsCheckTheirIndex s e p a b i hi).1 hs
  cases i with
  | encReset e => exact encoderAction (p := 0) (a := false) (b := false) (.inl rfl)
  | encPos e => exact encoderAction (p := 0) (a := false) (b := false) (.inr (.inl rfl))
  | encVel e p => exact encoderAction (a := false) (b := false) (.inr (.inr (.inl rfl)))
  | btnEdge pin => exact act_of_halted hs _
  | inSnap => exact act_of_halted hs _
  | inClr => exact act_of_halted hs _
  | pack r => exact act_of_halted hs _
  | pub => exact act_of_halted hs _
  | qin e x y => exact encoderAction (p := 0) (.inr (.inr (.inr rfl)))
  | i2cRd n => exact act_of_halted hs _

theorem present_of_halted (a : Agent) (w : Word) (r : PackRecord) (d : Draws) :
    present a w r d s = .fault .halted := by
  cases hdec : decode w r with
  | ok i => exact (present_of_decode_ok hdec s).trans (exec_of_halted (s := latch a d s) hs i)
  | error why => simp only [present, hdec, illegalWord, act_of_halted (s := latch a d s) hs]

theorem stepTaskA_of_halted (p : BitVec 16) (d : Draws) : stepTaskA p d s = .fault .halted := by
  simp only [stepTaskA, present_of_halted, ne_eq, hs, not_false_eq_true]

theorem stepTaskB_of_halted (p : BitVec 16) (ts : BitVec 32) (d : Draws) : stepTaskB p ts d s = .fault .halted := by
  simp only [stepTaskB, present_of_halted, ne_eq, hs, not_false_eq_true]

/-- On a faulted block no step but reset writes the fault registers: no action has a step, and the environment's other steps
write none. -/
theorem runEvent_fault_of_halted {ev : Event} {t : State} (h : runEvent ev s = .next t) (hev : ev ≠ .reset) :
    t.block.faultCode = s.block.faultCode ∧ t.block.faultWord = s.block.faultWord := by
  cases ev with
  | present a w r d => cases (present_of_halted hs a w r d).symm.trans h
  | taskA p d => cases (stepTaskA_of_halted hs p d).symm.trans h
  | taskB p ts d => cases (stepTaskB_of_halted hs p ts d).symm.trans h
  | tick more => cases h; exact ⟨rfl, rfl⟩
  | masterWrite data => cases h; exact ⟨rfl, rfl⟩
  | reset => exact absurd rfl hev

end

/-! ### The time base (60_exceptions.md R195) -/

theorem step_of_nextEvent {s : State} {ev : Event} (h : nextEvent s = ev) : step s = runEvent ev (advance s) := by
  rw [step, h]

theorem tick_block_ofNat (k : Nat) (s : State) :
    (tick k s).block = { s.block with tbUs := BitVec.ofNat 64 (s.block.tbUs.toNat + k) } := by
  rw [tick_block, BitVec.ofNat_add, BitVec.ofNat_toNat, BitVec.setWidth_eq]

theorem StepWrite.tbUs {p : Params} {b b' : Block} {ev : Event} (h : StepWrite p b ev b')
    (htick : ∀ more, ev ≠ .tick more) (hreset : ev ≠ .reset) : b'.tbUs = b.tbUs := by
  cases h with
  | action h => exact h.tbUs
  | illegalWord ev w => exact b.enterFault_tbUs _ w
  | tick more => exact absurd rfl (htick more)
  | masterWrite data => rfl
  | reset => exact absurd rfl hreset

/-- Settles O7: the addition of words is that of numbers modulo 2^64, and no action writes the time base. -/
theorem tickAloneAdvancesTheTimeBase : Obligations.TickAloneAdvancesTheTimeBase :=
  ⟨fun s more h => ⟨_, step_of_nextEvent h, tick_block_ofNat (more + 1) (advance s), rfl, rfl⟩,
    fun _ _ h => (step_stepWrite h).tbUs⟩

/-- Settles O10: every action begins with the check of the fault code, and the environment's steps do not have it. -/
theorem faultedBlockExecutesNoAction : Obligations.FaultedBlockExecutesNoAction := by
  refine ⟨fun i s hs => exec_of_halted hs i, fun s a w r d hs hev => ?present, fun s p ts d hs hev => ?task,
    fun s more _ hev => ?tick, fun s t hs h => runEvent_fault_of_halted (s := advance s) hs h,
    fun s _ hev => ⟨_, step_of_nextEvent hev, rfl⟩⟩
  case present => exact (step_of_nextEvent hev).trans (present_of_halted (s := advance s) hs a w r d)
  case task =>
    obtain hev | hev := hev
    · exact (step_of_nextEvent hev).trans (stepTaskA_of_halted (s := advance s) hs p d)
    · exact (step_of_nextEvent hev).trans (stepTaskB_of_halted (s := advance s) hs p ts d)
  case tick =>
    obtain ⟨t, ht, hblock, -, -⟩ := tickAloneAdvancesTheTimeBase.1 s more hev
    exact ⟨t, ht, hblock⟩

/-! ### The draws of an action (60_exceptions.md R194) -/

/-- Settles O49: a faulted block has no step whatever the draws, and on a running block the outcome is fixed by the listed
draws. -/
theorem drawsMatterOnlyWhereListed : Obligations.DrawsMatterOnlyWhereListed := by
  intro i s d hcounter hsamples hpublish
  by_cases hs : Ready s
  · cases exec_outcome hs ⟨hcounter, hsamples, hpublish⟩ with
    | completes h h' _ => rw [h, h']; rfl
    | faults h _ => rw [h s rfl, h { s with draws := d } rfl]; rfl
  · rw [exec_of_halted hs, exec_of_halted (s := { s with draws := d }) hs]

end Sys2Proof.Machine

/-! PROOFS. The block at reset, a velocity's baseline, an edge soon after reset, the velocities that fit the frame, what the
master reads between `PACK` and `PUB`, what the tasks present, and the statements of 70_reset_and_hazards.md. -/

namespace Sys2Proof.Machine

open Sys2Proof.Safety

/-! ### Reset (70_reset_and_hazards.md R200) -/

/-- Settles O46: the block's invariant holds at reset under any parameters, and Task A starts at its program's first stage. -/
theorem invariantHoldsAtReset : Obligations.InvariantHoldsAtReset :=
  ⟨blockInv_reset _, .inl rfl⟩

theorem Block.reset_button (p : Params) (i : Fin Config.nBtn) :
    (Block.reset p).button i = { pressed := false, lastPressUs := 0 } := by
  simp [Block.button, Block.reset, Vector.get_eq_getElem]

theorem Memory.read?_nil {a : Nat} (ha : a < Config.frameSize) : Memory.read? [] a = some 0 := Memory.read?_of_lt ha

theorem step_of_reset {s : State} (hev : nextEvent s = .reset) : step s = .next (resetAll (advance s)) :=
  step_of_nextEvent hev

/-- Settles O8: both ways the block is the reset block of the parameters, and no other step of a faulted block writes the
fault code. -/
theorem resetSetsEveryElement : Obligations.ResetSetsEveryElement := by
  refine ⟨fun s hev => ⟨_, step_of_reset hev⟩, fun s t h => ?elements, fun s t h hs ht => ?onlyWayOut⟩
  case elements =>
    have hblock : t.block = Block.reset t.params := by
      obtain ⟨hev, hstep⟩ | rfl := h
      · cases (step_of_reset hev).symm.trans hstep
        rfl
      · rfl
    rw [hblock]
    exact ⟨Block.reset_encoder _, Block.reset_button _, rfl,
      fun _ ha => ⟨Memory.read?_nil ha, Memory.read?_nil ha⟩, rfl, rfl⟩
  case onlyWayOut =>
    by_contra hev
    exact hs ((runEvent_fault_of_halted (s := advance s) hs h hev).1.symm.trans ht)

/-! ### The shared baseline (70_reset_and_hazards.md R210) -/

section
variable {s : State} (hs : Ready s) (hok : s.draws.cntOk = true) {e p : Nat} (he : e < Config.nEnc) (hp : p ≠ 0)
include hs hok hp

/-- A successful `ENC.VEL` leaves its position as the baseline. -/
theorem last_of_encVel {t : State} (h : exec (.encVel e p) s = .next t) :
    (t.block.encoder ⟨e, he⟩).last = (s.block.encoder ⟨e, he⟩).position := by
  rw [complete_block ((exec_encVel_of_lt hs he hp).symm.trans h), Block.encoder_setEncoder_same, hok, readPosition_ok]

/-- A successful `ENC.VEL` responds the velocity of its position against the baseline it finds. -/
theorem encVel_response_of_ok : ∃ t, exec (.encVel e p) s = .next t ∧
    t.response = some ⟨s.port, .velocity
      (velOf (velDelta (s.block.encoder ⟨e, he⟩) (s.block.encoder ⟨e, he⟩).position) p)⟩ := by
  rw [exec_encVel_of_lt hs he hp, hok, readPosition_ok]
  exact ⟨_, rfl, rfl⟩

end

/-- Settles O22: the baseline that the second read finds is the position of the first. -/
theorem velocityMeasuresFromTheLatestRead : Obligations.VelocityMeasuresFromTheLatestRead := by
  intro s t u e p q he hs hu hp hq hsok huok h hlast
  obtain ⟨v, hv, hresponse⟩ := encVel_response_of_ok hu huok he hq
  rw [velDelta, hlast, last_of_encVel hs hsok he hp h, velOf_eq] at hresponse
  exact ⟨v, hv, hresponse⟩

/-! ### An edge soon after reset (70_reset_and_hazards.md R203) -/

theorem elapsedUs_zero (now : Micros) : elapsedUs now 0 = now.toNat := congrArg BitVec.toNat (sub_zero now)

/-- Settles O26: since the timestamp 0 no more time has passed than the time base shows. -/
theorem earlyEdgeIsDiscarded : Obligations.EarlyEdgeIsDiscarded := by
  intro s pin hs hlast htb
  have hblock : s.block.pinEdge s.params pin = s.block := by
    cases hpin : pinMap s.params pin with
    | none => exact Block.pinEdge_of_unmapped hpin
    | some b =>
      refine Block.pinEdge_of_discarded hpin ?_
      rw [hlast, elapsedUs_zero]
      exact htb
  rw [exec_btnEdge hs, hblock]
  rfl

/-! ### The velocities that fit the frame (70_reset_and_hazards.md R217) -/

theorem natAbs_fixedPoint_velOf (d : Int) (p : Nat) : (fixedPoint (velOf d p)).natAbs = 100000 * d.natAbs / p := by
  rw [fixedPoint_velOf, Int.natAbs_tdiv, Int.natAbs_mul, Int.natAbs_natCast]
  rfl

/-- Settles O32: the largest change has the value 4000000000 at 1 ms, of which a longer period leaves at most half. -/
theorem velocityFitsTheFrame : Obligations.VelocityFitsTheFrame := by
  refine ⟨fun d p hlow hhigh hp => ?_, fun d _ _ => ?_⟩
  · have hz : (fixedPoint (velOf d p)).natAbs ≤ 4000000000 / 2 := by
      rw [natAbs_fixedPoint_velOf]
      exact Nat.div_le_div (by omega) hp (by decide)
    exact Option.isSome_iff_ne_none.2 (toFix_ne_none (by omega) (by omega))
  · have hz : fixedPoint (velOf d 1) = 100000 * d := (fixedPoint_velOf d 1).trans (Int.tdiv_one _)
    rw [toFix_eq_none_iff, hz]
    omega

/-! ### A master read between `PACK` and `PUB` (70_reset_and_hazards.md R216) -/

/-- Of the frame's bytes, two reads of one buffer respond the same. -/
theorem masterBytes_getElem?_congr (tx : Memory) (moves moves' n : Nat) {k : Nat} (hk : k < Config.frameSize) :
    (masterBytes tx moves n)[k]? = (masterBytes tx moves' n)[k]? := by
  by_cases hn : k < n
  · rw [masterBytes_getElem? hn hk, masterBytes_getElem? hn hk]
  · have hlen (moves : Nat) : (masterBytes tx moves n).length ≤ k := by
      rw [masterBytes_length]
      omega
    rw [List.getElem?_eq_none (hlen moves), List.getElem?_eq_none (hlen moves')]

/-- Settles O37: `PACK` leaves the bus buffer, which is all that the two reads take of the block. -/
theorem masterReadsThePublishedFrame : Obligations.MasterReadsThePublishedFrame := by
  intro s t r n h ht
  have hs : Ready s := (exec_next h).1
  obtain ⟨m, hblock⟩ := pack_block h ht
  have htx : t.block.txbuf = s.block.txbuf := by rw [hblock]
  refine ⟨_, _, _, _, exec_i2cRd hs n, exec_i2cRd ht n, rfl, rfl, masterBytes_length _ _ n, masterBytes_length _ _ n,
    fun k hk => ?_⟩
  rw [htx]
  exact masterBytes_getElem?_congr _ _ _ n hk

/-! ### The ownership discipline (70_reset_and_hazards.md R213) -/

theorem mayPresent_taskA {t : Task} (h : TaskAInv t) : mayPresent .taskA t.action = true := by
  obtain h | h | h | h := h
  · rw [Task.action_of_pos0 h]; rfl
  · rw [Task.action_of_vel0 h]; rfl
  · rw [Task.action_of_pos1 h]; rfl
  · rw [Task.action_of_vel1 h]; rfl

theorem mayPresent_taskB (t : Task) : mayPresent .taskB t.action = true := by
  unfold Task.action
  split <;> rfl

/-- Settles O53: each stage's action is one its task may present; Task A stands only at the encoder reads. -/
theorem cyclesKeepTheDiscipline : Obligations.CyclesKeepTheDiscipline :=
  ⟨fun _ => mayPresent_taskA, mayPresent_taskB⟩

end Sys2Proof.Machine
